-- ==== Sys2Proof/Word.lean ====
section
/-! DEFINITION. The word types of the block (spec/00_scope.md R7, R9): every value is an unsigned
integer of a stated width, bit 0 least significant. Plain names for bit vectors, nothing else. -/

namespace Sys2Proof

/-- `WORD` of R7: the width of a command word, of `ACC` and of `CMD`. -/
abbrev Config.word : Nat := 16

/-- A transaction code `op[3:0]`, format `TXN4` (R48). -/
abbrev Code := BitVec 4

/-- A tick value, an edge timestamp or a duration: `W` bits, `W` open (R7, R8). -/
abbrev Stamp (w : Nat) := BitVec w

/-- A command word (R53). -/
abbrev CmdWord := BitVec Config.word

/-- The four output lines as one port value `OUT[3:0]` (R56). -/
abbrev Port := BitVec 4

end Sys2Proof
end

