-- ==== Sys2Proof/Config.lean ====
section
/-! DEFINITION. What is fixed for one block: the named constants of spec/00_scope.md R7, the
parameters R7 leaves open as a `Config`, the constraints of R8 on them, and the free values.
Each literal of the source has one name here, so that an audit of a literal changes one line. -/

namespace Sys2Proof

/-! ### Constants with a value in R7 -/

/-- `CAP` (R7): entries of the capture buffer. -/
def Config.cap : Nat := 100

/-- `T_SHORT` (R7): the largest duration classed SHORT. -/
def Config.tShort : Nat := 5

/-- `T_LOW` (R7): the largest duration classed LOW. -/
def Config.tLow : Nat := 15

/-- `T_HIGH` (R7): the largest duration classed HIGH. -/
def Config.tHigh : Nat := 30

/-- `D_STARTUP` (R7): time units of the startup delay. -/
def Config.dStartup : Nat := 1000

/-- `D_STOP` (R7): time units one phase of the STOP sequence is held. -/
def Config.dStop : Nat := 50

/-- `D_IDLE` (R7): time units one phase of the idle blink is held. -/
def Config.dIdle : Nat := 400

/-- `STOP_PAIRS` (R7; reading D8): (on, off) pairs of the STOP sequence. -/
def Config.stopPairs : Nat := 4

/-- The least `W` that R8(a) allows: 31, the least LONG duration, has to fit. -/
def Config.minTickWidth : Nat := 5

/-! ### The parameters of one block -/

/-- The parameters R7 leaves to the model's argument, before R8's constraints are checked:
`TICK_WIDTH`, the four key codes, and the two Boolean switches with R7's values as defaults. -/
structure RawConfig where
  tickWidth      : Nat
  codeForward    : CmdWord
  codeRewind     : CmdWord
  codePlay       : CmdWord
  codeStop       : CmdWord
  accPerDrain    : Bool := true
  startupCapture : Bool := false
  deriving DecidableEq, Repr

/-- R8(a) and R8(b): `W >= 5` and no zero code. R8(c) asks nothing: equal codes are allowed. -/
def RawConfig.wf (r : RawConfig) : Bool :=
  decide (Config.minTickWidth ≤ r.tickWidth) && (r.codeForward != 0) && (r.codeRewind != 0) &&
    (r.codePlay != 0) && (r.codeStop != 0)

/-- A configuration that R8 accepts. An ill-formed one cannot be built (R8, U26). -/
structure Config extends RawConfig where
  valid : toRawConfig.wf = true
  deriving DecidableEq, Repr

/-! ### Open and free values (no body: nothing can evaluate them) -/

/-- How far the block's tick width lies above the least allowed one: `W` is open (R7, D3). -/
opaque Config.openWidth : Nat

/-- The four key codes of the block, less one: open (R7, D4), in 1..0xFFFF (R8(b)). -/
opaque Config.openCodeForward : Fin 65535
opaque Config.openCodeRewind : Fin 65535
opaque Config.openCodePlay : Fin 65535
opaque Config.openCodeStop : Fin 65535

/-- `TIME_UNIT` (R7): the physical length of a delay time unit. Open; it enters no rule (R135). -/
opaque Config.timeUnit : Nat

/-- `TICK_PERIOD` (R7): the physical length of a tick. Open; it enters no rule (R135). -/
opaque Config.tickPeriod : Nat

/-- `freeEntry w g i`: what the capture-buffer entry `i` holds after the `g`-th RESET until EDGE
writes it: "unspecified: any `W`-bit value" (R32, U10). -/
opaque Config.freeEntry : (w : Nat) → Nat → Nat → Stamp w

/-- `freeChoice k`: which of the enabled transactions is taken as transaction number `k` when no
script says so: every order is admitted (R6, R118). -/
opaque Config.freeChoice : Nat → Nat

/-- A nonzero code out of an open value. -/
def Config.codeOf (k : Fin 65535) : CmdWord := BitVec.ofNat Config.word (k.val + 1)

theorem Config.codeOf_ne_zero (k : Fin 65535) : Config.codeOf k ≠ 0 := by
  intro h
  have h' := congrArg BitVec.toNat h
  have hk := k.isLt
  simp [Config.codeOf, Config.word] at h'
  omega

/-- The parameters of the block of the source: everything R7 leaves open is open, and the two
switches have the values R7 gives them. -/
def Config.chipRaw : RawConfig where
  tickWidth := Config.openWidth + Config.minTickWidth
  codeForward := Config.codeOf Config.openCodeForward
  codeRewind := Config.codeOf Config.openCodeRewind
  codePlay := Config.codeOf Config.openCodePlay
  codeStop := Config.codeOf Config.openCodeStop

theorem Config.chipRaw_wf : Config.chipRaw.wf = true := by
  have h := Config.codeOf_ne_zero
  simp only [RawConfig.wf, Config.chipRaw, Bool.and_eq_true, bne_iff_ne]
  exact ⟨⟨⟨⟨decide_eq_true (Nat.le_add_left _ _), h _⟩, h _⟩, h _⟩, h _⟩

/-- The configuration of the block. -/
def Config.chip : Config := { toRawConfig := Config.chipRaw, valid := Config.chipRaw_wf }

end Sys2Proof
end

