-- ==== Sys2Proof/Syntax.lean ====
section
/-! DEFINITION. The transactions, which this hardware has in place of instructions
(spec/30_encoding.md R49; the rows of spec/opcode_table.json). No transaction has an operand (R48). -/

namespace Sys2Proof

/-- The seven transactions. The first four are the environment's, the last three the foreground
sequencer's (R6, R49). -/
inductive Instr where
  /-- TICK: one increment of the time base (R62). -/
  | tick
  /-- EDGE: one logic transition of the input line (R63). -/
  | edge
  /-- DELAY_DONE: the requested delay has elapsed (R102). -/
  | delayDone
  /-- RESET: power-on reset (R125). -/
  | reset
  /-- POLL: test whether the capture buffer is full (R101). -/
  | poll
  /-- DRAIN: decode every buffered entry, then reset the buffer (R80). -/
  | drain
  /-- DISPATCH: apply the Command Register to the output port (R87). -/
  | dispatch
  deriving DecidableEq, Repr

/-- Every transaction, in the order of the codes of R49. -/
def Instr.all : List Instr := [.tick, .edge, .delayDone, .reset, .poll, .drain, .dispatch]

/-- The two agents of R6. -/
inductive Agent where
  /-- issues TICK, EDGE, DELAY_DONE and RESET -/
  | environment
  /-- issues POLL, DRAIN and DISPATCH -/
  | sequencer
  deriving DecidableEq, Repr

/-- Who issues a transaction (R49, column "issued by"). -/
def Instr.agent : Instr → Agent
  | .tick => .environment
  | .edge => .environment
  | .delayDone => .environment
  | .reset => .environment
  | .poll => .sequencer
  | .drain => .sequencer
  | .dispatch => .sequencer

/-- One line of a transaction script before expansion (R59, R60). -/
inductive ScriptLine where
  /-- a transaction, spelled by its mnemonic -/
  | txn (i : Instr)
  /-- `TICK*n` -/
  | ticks (n : Nat)
  /-- `PULSE n` -/
  | pulse (n : Nat)
  /-- `BOOT` -/
  | boot
  /-- `ITER` -/
  | iter
  deriving DecidableEq, Repr

end Sys2Proof
end

