-- ==== Sys2Proof/Machine/State.lean ====
section
/-! DEFINITION. The machine's state as plain data: every element of spec/10_state.md R13 under its own
name, the transaction script the machine fetches from (spec/30_encoding.md R59), the observation
(spec/44_sequencer.md R110), and the model's own counters; the reset state of R32; and the reasons a
step can stop. -/

namespace Sys2Proof.Machine

/-- `SEQ` (R25): which foreground transaction is enabled next. -/
inductive SeqState where
  /-- a delay request is outstanding -/
  | wait
  /-- about to test `FULL` -/
  | poll
  /-- will drain the buffer -/
  | drain
  /-- will dispatch `CMD` -/
  | dispatch
  deriving DecidableEq, Repr

/-- `DKIND` (R26): which delay sequence is in progress. The unreachable code 3 of R58 has no
constructor (U25). -/
inductive DelayKind where
  | startup
  | stop
  | idle
  deriving DecidableEq, Repr

/-- The pulse class of a duration (R52). -/
inductive PulseClass where
  /-- noise or glitch, ignored -/
  | short
  /-- bit value 0 -/
  | low
  /-- bit value 1 -/
  | high
  /-- frame boundary -/
  | long
  deriving DecidableEq, Repr

/-- The dispatch branch of a command value (R55, R88). -/
inductive Branch where
  | forward
  | rewind
  | play
  | stop
  | idle
  deriving DecidableEq, Repr

/-- One boundary event of the observation (R110). -/
inductive Event where
  /-- the transaction taken -/
  | txn (i : Instr)
  /-- `PortWrite(p)` -/
  | portWrite (p : Port)
  /-- `DelayRequest(n)` -/
  | delayRequest (n : Nat)
  deriving DecidableEq, Repr

/-- The capture buffer as (index, entry) pairs. In canonical form (`Memory.wf`) the indices rise
strictly and lie in 0..`CAP-1`. An index that is not listed has not been written since the last
RESET: what it reads as is a free value (`State.readEntry`). An entry is one whole `W`-bit value,
never bytes (R34, R35). -/
abbrev Memory (w : Nat) := List (Nat × Stamp w)

/-- The state of the block. -/
structure State where
  /-- the parameters of R7; fixed for a run, written by no transaction -/
  cfg     : Config
  /-- `TICK` (R14): the tick counter -/
  tick    : Stamp cfg.tickWidth
  /-- `BUF[0..CAP-1]` (R15): the edge timestamps -/
  buf     : Memory cfg.tickWidth
  /-- `WP` (R16): the write position, 0..`CAP` -/
  wp      : Fin (Config.cap + 1)
  /-- `RP` (R17): the read position, 0..`CAP` -/
  rp      : Fin (Config.cap + 1)
  /-- `PREV_TS` (R19): the last edge timestamp decoded -/
  prevTs  : Stamp cfg.tickWidth
  /-- `ACC` (R20): the command word being assembled -/
  acc     : CmdWord
  /-- `BITPOS` (R21): the next bit index of `ACC`, 0..15 -/
  bitpos  : Fin Config.word
  /-- `CMD` (R22): the Command Register -/
  cmd     : CmdWord
  /-- `OUT` (R23): the output port -/
  out     : Port
  /-- `CAP_EN` (R24): the capture window is open -/
  capEn   : Bool
  /-- `SEQ` (R25): the sequencer state -/
  seq     : SeqState
  /-- `DKIND` (R26) -/
  dkind   : DelayKind
  /-- `DPHASE` (R26): 0..`2*STOP_PAIRS-1` -/
  dphase  : Fin (2 * Config.stopPairs)
  /-- `DREQ_N` (R27): the duration of the outstanding delay request -/
  dreqN   : Nat
  /-- the codes of the transaction script not yet taken (R59): the choices of the two agents, in order -/
  script  : List Code
  /-- MODEL's own: transactions fetched since `State.reset`, over all scripts and RESETs. The position a refusal
  names is counted so, which is a choice of the model: DESIGN CHOICE, log 19 -/
  pos     : Nat
  /-- the observation so far (R110), oldest event first -/
  trace   : List Event
  /-- MODEL's own: which draw of unspecified `BUF` entries holds; every RESET draws anew (R32) -/
  bufDraw : Nat
  deriving DecidableEq, Repr

/-- The state right after the power-on RESET of a block with configuration `c` (R32, R125, R127).
Its observation is that of the one RESET (R125: a `DelayRequest`, and no `PortWrite`). -/
def State.resetWith (c : Config) : State where
  cfg := c
  tick := 0
  buf := []
  wp := 0
  rp := 0
  prevTs := 0
  acc := 0
  bitpos := 0
  cmd := 0
  out := 0
  capEn := c.startupCapture
  seq := .wait
  dkind := .startup
  dphase := ⟨0, by decide⟩
  dreqN := Config.dStartup
  script := []
  pos := 0
  trace := [.txn .reset, .delayRequest Config.dStartup]
  bufDraw := 0

/-- The block of the source right after reset (R32). -/
def State.reset : State := State.resetWith Config.chip

/-- Faults: none. "The block raises no exception. No transaction has a fault outcome" (R111), so the
type has no constructor and no step can answer with a fault. -/
inductive Fault where
  deriving DecidableEq, Repr

/-- Why the machine refuses a step. "The only refusals are reserved transaction codes (R50) and
transactions that are not enabled (R12)" (R111). All are safe: a refused step has no next state. -/
inductive Refusal where
  /-- Raised by `exec`, for a transaction with no meaning yet (there is none). Safe. -/
  | notModelled (mnemonic : String)
  /-- Raised by `step`: the next code is reserved. The position counts all transactions
  fetched since `State.reset`, this one included (log 19)
  (R50, U23). Safe. -/
  | reservedCode (position : Nat) (code : Code)
  /-- Raised by a meaning whose guard is false: the transaction has no step in this state
  (R12, R49, U24), at this position, counted as for
  `reservedCode` (log 19). Safe. -/
  | notEnabled (position : Nat) (i : Instr)
  deriving DecidableEq, Repr

end Sys2Proof.Machine
end

