-- ==== Sys2Proof/Machine/Codes.lean ====
section
/-! DEFINITION. The internal encodings and the output patterns (spec/30_encoding.md R52, R56 to R58). -/

namespace Sys2Proof.Machine

/-- The four output lines the source names (R56). -/
inductive Line where
  | motor1
  | motor2
  | indicator1
  | indicator2
  deriving DecidableEq, Repr

/-- The bit of `OUT` that drives a line (R56). -/
def Line.bit : Line → Nat
  | .motor1 => 0
  | .motor2 => 1
  | .indicator1 => 2
  | .indicator2 => 3

/-- A line is active when its bit of the port is 1 (R56). -/
def lineActive (p : Port) (l : Line) : Bool := p.getLsbD l.bit

/-- The port value in which exactly the listed lines are active: a line absent from a pattern is
driven inactive by the same write (R39, R89). -/
def patternOf (ls : List Line) : Port := ls.foldr (fun l p => p ||| ((1 : Port) <<< l.bit)) 0

/-- `P_FORWARD` (R57): "indicator-2 only". -/
def pForward : Port := patternOf [.indicator2]

/-- `P_REWIND` (R57): "motor-1 + indicator-1 + motor-2". -/
def pRewind : Port := patternOf [.motor1, .indicator1, .motor2]

/-- `P_PLAY` (R57): "motor-1 + indicator-1 + indicator-2". -/
def pPlay : Port := patternOf [.motor1, .indicator1, .indicator2]

/-- `P_STOP_ON` (R57): "indicator-1 + indicator-2 + motor-2". -/
def pStopOn : Port := patternOf [.indicator1, .indicator2, .motor2]

/-- `P_STOP_OFF` (R57): "motor-2 only". -/
def pStopOff : Port := patternOf [.motor2]

/-- `P_IDLE_ON` (R57): "indicator-1 + motor-2". -/
def pIdleOn : Port := patternOf [.indicator1, .motor2]

/-- `P_IDLE_OFF` (R57): "motor-2 only". -/
def pIdleOff : Port := patternOf [.motor2]

/-- The classifier's output code `cls[1:0]` (R52). -/
def PulseClass.code : PulseClass → BitVec 2
  | .short => 0b00
  | .low => 0b01
  | .high => 0b10
  | .long => 0b11

/-- The code of `SEQ` (R58). -/
def SeqState.code : SeqState → BitVec 2
  | .wait => 0
  | .poll => 1
  | .drain => 2
  | .dispatch => 3

/-- The code of `DKIND` (R58). -/
def DelayKind.code : DelayKind → BitVec 2
  | .startup => 0
  | .stop => 1
  | .idle => 2

end Sys2Proof.Machine
end

