-- ==== Sys2Proof/Machine/Ops.lean ====
section
/-! DEFINITION. The named operations over the capture buffer and the registers, which the transactions
share. There is no operation for taking an exception or returning from one, because the block has
none: "There is no trap entry. Nothing saves state, changes mode or vectors control"
(spec/60_exceptions.md R111, R119, R120). -/

namespace Sys2Proof.Machine

/-! ### The capture buffer -/

/-- The canonical form from index `lo` on: indices rise strictly and lie below `CAP` (R33, R37). -/
def Memory.wfFrom {w : Nat} (lo : Nat) : Memory w → Bool
  | [] => true
  | (i, _) :: m => decide (lo ≤ i) && decide (i < Config.cap) && Memory.wfFrom (i + 1) m

/-- The canonical form of the capture buffer. -/
def Memory.wf {w : Nat} (m : Memory w) : Bool := Memory.wfFrom 0 m

/-- The entry recorded at an index, if one has been written since the last RESET. -/
def Memory.entry {w : Nat} : Memory w → Nat → Option (Stamp w)
  | [], _ => none
  | (j, v) :: m, i => if i = j then some v else Memory.entry m i

/-- `MemWrite(i, 1, v)` (R11): one whole entry; keeps the canonical form. -/
def Memory.write {w : Nat} : Memory w → Nat → Stamp w → Memory w
  | [], i, v => [(i, v)]
  | (j, u) :: m, i, v =>
    if i < j then (i, v) :: (j, u) :: m
    else if i = j then (i, v) :: m
    else (j, u) :: Memory.write m i v

/-- `BUF[i]` = `MemRead(i, 1)` (R11): one whole entry. An entry not written since RESET reads as a
free value: "unspecified: any `W`-bit value" (R32, U10). -/
def State.readEntry (s : State) (i : Nat) : Stamp s.cfg.tickWidth :=
  (Memory.entry s.buf i).getD (Config.freeEntry s.cfg.tickWidth s.bufDraw i)

/-- `BUF[i] <- v` (R11, R63). -/
def State.writeEntry (s : State) (i : Nat) (v : Stamp s.cfg.tickWidth) : State :=
  { s with buf := Memory.write s.buf i v }

/-- `BufReset` (R67): the positions go to 0; the entries stay as they were. -/
def State.bufReset (s : State) : State := { s with wp := 0, rp := 0 }

/-- RESET leaves `BUF` "unchanged or any value (unspecified)" (R125): every entry is drawn anew. -/
def State.drawBuffer (s : State) : State := { s with buf := [], bufDraw := s.bufDraw + 1 }

/-! ### The boundary -/

/-- Add one event to the observation (R110). -/
def State.record (s : State) (e : Event) : State := { s with trace := s.trace ++ [e] }

/-- `PortWrite(p)` (R89): all four lines in one step, and one event, also when `OUT` already holds `p`. -/
def State.portWrite (s : State) (p : Port) : State :=
  State.record { s with out := p } (.portWrite p)

/-- `DelayRequest(n)` (R104): ask for `n` time units, one event each time. The caller sets `SEQ`. -/
def State.delayRequest (s : State) (n : Nat) : State :=
  State.record { s with dreqN := n } (.delayRequest n)

/-! ### The decoder's registers as one record -/

/-- The registers a symbol step reads and writes: `PREV_TS`, `ACC`, `BITPOS` (R74) and the latch
`CMD` (R81). -/
structure Decoder (w : Nat) where
  prevTs : Stamp w
  acc    : CmdWord
  bitpos : Fin Config.word
  cmd    : CmdWord
  deriving DecidableEq, Repr

/-- The decoder's view of the state. -/
def State.decoder (s : State) : Decoder s.cfg.tickWidth :=
  { prevTs := s.prevTs, acc := s.acc, bitpos := s.bitpos, cmd := s.cmd }

/-- Write the decoder's registers back. -/
def State.setDecoder (s : State) (d : Decoder s.cfg.tickWidth) : State :=
  { s with prevTs := d.prevTs, acc := d.acc, bitpos := d.bitpos, cmd := d.cmd }

/-! ### Guards -/

/-- The guard of a transaction (R49, column "enabled when"). -/
def enabled (i : Instr) (s : State) : Bool :=
  match i with
  | .tick => true
  | .edge => true
  | .delayDone => s.seq == .wait
  | .reset => true
  | .poll => s.seq == .poll
  | .drain => s.seq == .drain
  | .dispatch => s.seq == .dispatch

/-- "A transaction whose guard is false has no step" (R12): it is refused by name, with the position (log 19)
of the script it stands at (R59, U24). -/
def whenEnabled (i : Instr) (s : State) (effect : State → State) :
    Host.Outcome State Fault Refusal :=
  if enabled i s then .next (effect s) else .refused (.notEnabled s.pos i)

end Sys2Proof.Machine
end

