-- ==== Sys2Proof/Machine/Operands.lean ====
section
/-! DEFINITION. Operand assembly (spec/30_encoding.md R51). No transaction has an immediate; these are
the values that enter the datapath. -/

namespace Sys2Proof.Machine

/-- EDGE's timestamp: "`TICK`, all `W` bits, with no extension or scaling" (R51, R38). -/
def State.edgeStamp (s : State) : Stamp s.cfg.tickWidth := s.tick

/-- The duration of the entry `ts`: `(ts - PREV_TS) mod 2^W` (R71). -/
def duration {w : Nat} (ts prev : Stamp w) : Stamp w := ts - prev

/-- The operand of the HIGH action, `1 << BITPOS` into the 16-bit `ACC` (R51, R77). -/
def bitMask (p : Fin Config.word) : CmdWord := (1 : CmdWord) <<< p.val

/-- How many phases a blocking sequence has (R105). The startup delay has none. -/
def phaseCount (k : DelayKind) : Nat :=
  match k with
  | .startup => 0
  | .stop => 2 * Config.stopPairs
  | .idle => 2

/-- How long one phase of the sequence is held (R94, R96, R105). -/
def phaseHold (k : DelayKind) : Nat :=
  match k with
  | .startup => Config.dStartup
  | .stop => Config.dStop
  | .idle => Config.dIdle

end Sys2Proof.Machine
end

