-- ==== Sys2Proof/Machine/Flags.lean ====
section
/-! DEFINITION. The block's only status flag (spec/10_state.md R18). There are no condition codes. -/

namespace Sys2Proof.Machine

/-- `FULL = (WP == CAP)`: combinational, with no storage of its own (R18, R66). -/
def State.full (s : State) : Bool := s.wp.val == Config.cap

end Sys2Proof.Machine
end

