-- ==== Sys2Proof/Machine/Capture.lean ====
section
/-! DEFINITION. TICK and EDGE (spec/40_capture.md R62 to R69). -/

namespace Sys2Proof.Machine

/-- `TICK <- (TICK + 1) mod 2^W` (R62). -/
def tickEffect (s : State) : State := { s with tick := s.tick + 1 }

/-- `record(TICK)` (R63): append at `WP` if capture is open and the buffer not full; else the edge is
silently lost (R64, R65). -/
def edgeEffect (s : State) : State :=
  if h : s.capEn = true ∧ s.wp.val < Config.cap then
    { s.writeEntry s.wp.val s.edgeStamp with wp := ⟨s.wp.val + 1, by omega⟩ }
  else s

/-- TICK (R62). -/
def execTick (s : State) : Host.Outcome State Fault Refusal := whenEnabled .tick s tickEffect

/-- EDGE (R63). -/
def execEdge (s : State) : Host.Outcome State Fault Refusal := whenEnabled .edge s edgeEffect

end Sys2Proof.Machine
end

