-- ==== Sys2Proof/Machine/Classifier.lean ====
section
/-! DEFINITION. The Pulse Classifier (spec/41_classifier.md): a comparator tree with no state. -/

namespace Sys2Proof.Machine

/-- `classify(d)` (R70). -/
def classify {w : Nat} (d : Stamp w) : PulseClass :=
  if d.toNat ≤ Config.tShort then .short
  else if d.toNat ≤ Config.tLow then .low
  else if d.toNat ≤ Config.tHigh then .high
  else .long

/-- The bit a counted symbol stands for: HIGH gives 1 and LOW gives 0; SHORT symbols are not counted,
and LONG counts nothing (R53, R54). -/
def PulseClass.bit : PulseClass → Option Bool
  | .short => none
  | .low => some false
  | .high => some true
  | .long => none

end Sys2Proof.Machine
end

