-- ==== Sys2Proof/Machine/Decoder.lean ====
section
/-! DEFINITION. The Bitstream Decoder, the Command Register latch and DRAIN (spec/42_decoder.md). -/

namespace Sys2Proof.Machine

/-- Step c of `DecodeSymbol` (R76 to R79): `ACC` and `BITPOS` after the class action. `BITPOS` is
computed one bit wider than it is stored, since it may reach 16 here (R21, C4). -/
def classAction (c : PulseClass) (acc : CmdWord) (bitpos : Fin Config.word) :
    CmdWord × Fin (Config.word + 1) :=
  match c with
  | .short => (acc, bitpos.castSucc)
  | .high => (acc ||| bitMask bitpos, bitpos.succ)
  | .low => (acc, bitpos.succ)
  | .long => (0, 0)

/-- Steps d and e of `DecodeSymbol` (R75, R81, R82): a counted 16th bit latches the word and clears
the assembly; `PREV_TS` takes the timestamp for every class. -/
def completeSymbol {w : Nat} (cmd : CmdWord) (ts : Stamp w) (a : CmdWord × Fin (Config.word + 1)) :
    Decoder w :=
  if h : a.2.val = Config.word then { prevTs := ts, acc := 0, bitpos := 0, cmd := a.1 }
  else { prevTs := ts, acc := a.1, bitpos := ⟨a.2.val, by omega⟩, cmd := cmd }

/-- `DecodeSymbol(ts)` (R75). -/
def decodeSymbol {w : Nat} (d : Decoder w) (ts : Stamp w) : Decoder w :=
  completeSymbol d.cmd ts (classAction (classify (duration ts d.prevTs)) d.acc d.bitpos)

/-- Does this symbol step complete a word (step d of R75 fires, R82)? -/
def completesWord {w : Nat} (d : Decoder w) (ts : Stamp w) : Bool :=
  (classAction (classify (duration ts d.prevTs)) d.acc d.bitpos).2.val == Config.word

/-- The symbol steps of a list of timestamps, in order: "no reordering, no skipping" (R44, R80). -/
def decodeAll {w : Nat} (d : Decoder w) (ts : List (Stamp w)) : Decoder w := ts.foldl decodeSymbol d

/-- The classes of the gaps between consecutive timestamps, the first one measured from `prev`: one
symbol per gap (R54, R71). -/
def gapClasses {w : Nat} (prev : Stamp w) : List (Stamp w) → List PulseClass
  | [] => []
  | t :: ts => classify (duration t prev) :: gapClasses t ts

/-- The bits the counted symbols stand for, first symbol first (R53). -/
def countedBits (cs : List PulseClass) : List Bool := cs.filterMap PulseClass.bit

/-- How many words a list of timestamps completes (R80, R86). -/
def wordsCompleted {w : Nat} (d : Decoder w) : List (Stamp w) → Nat
  | [] => 0
  | t :: ts => (if completesWord d t then 1 else 0) + wordsCompleted (decodeSymbol d t) ts

/-- The decoder at the start of a drain: a partial word of the last drain is cleared when
`ACC_PER_DRAIN` holds (R80, R84). -/
def State.drainStart (s : State) : Decoder s.cfg.tickWidth :=
  if s.cfg.accPerDrain then { s.decoder with acc := 0, bitpos := 0 } else s.decoder

/-- The entries a drain reads: `BUF[RP]` to `BUF[CAP-1]` in index order (R34, R80). -/
def State.drainEntries (s : State) : List (Stamp s.cfg.tickWidth) :=
  (List.range' s.rp.val (Config.cap - s.rp.val)).map s.readEntry

/-- DRAIN's effect (R80): the start of the drain, the symbol steps, `BufReset`, `SEQ <- DISPATCH`. -/
def drainEffect (s : State) : State :=
  { (s.setDecoder (decodeAll s.drainStart s.drainEntries)).bufReset with seq := .dispatch }

/-- DRAIN (R80). -/
def execDrain (s : State) : Host.Outcome State Fault Refusal := whenEnabled .drain s drainEffect

end Sys2Proof.Machine
end

