-- ==== Sys2Proof/Machine/Reset.lean ====
section
/-! DEFINITION. RESET (spec/70_reset_and_hazards.md R125 to R127). -/

namespace Sys2Proof.Machine

/-- RESET's effect (R125): the values of R32, a startup delay request, and no `PortWrite` event. The
script, its position and the observation are no state of the block and go on. -/
def resetEffect (s : State) : State :=
  { (State.drawBuffer
      { s with tick := 0, wp := 0, rp := 0, prevTs := 0, acc := 0, bitpos := 0, cmd := 0, out := 0,
               capEn := s.cfg.startupCapture, dkind := .startup,
               dphase := ⟨0, by decide⟩ }).delayRequest Config.dStartup with seq := .wait }

/-- RESET (R125). -/
def execReset (s : State) : Host.Outcome State Fault Refusal := whenEnabled .reset s resetEffect

end Sys2Proof.Machine
end

