-- ==== Sys2Proof/Machine/Dispatcher.lean ====
section
/-! DEFINITION. The Command Dispatcher (spec/43_dispatcher.md R87 to R99). -/

namespace Sys2Proof.Machine

/-- `Select(v)` (R88): a priority comparator chain. -/
def select (c : Config) (v : CmdWord) : Branch :=
  if v = c.codeForward then .forward
  else if v = c.codeRewind then .rewind
  else if v = c.codePlay then .play
  else if v = c.codeStop then .stop
  else .idle

/-- `StopPattern(p)` (R94). -/
def stopPattern (p : Nat) : Port := if p % 2 = 0 then pStopOn else pStopOff

/-- `IdlePattern(p)` (R96). -/
def idlePattern (p : Nat) : Port := if p = 0 then pIdleOn else pIdleOff

/-- The pattern of phase `p` of a blocking sequence (R105). -/
def phasePattern (k : DelayKind) (p : Nat) : Port :=
  match k with
  | .stop => stopPattern p
  | .startup => idlePattern p
  | .idle => idlePattern p

/-- A branch of one port write (R90 to R92). -/
def State.dispatchOnce (s : State) (p : Port) : State := { s.portWrite p with seq := .poll }

/-- The start of a blocking sequence (R93, R95): phase 0's pattern, the request, `SEQ <- WAIT`. -/
def State.dispatchBlocking (s : State) (k : DelayKind) : State :=
  { (State.portWrite { s with dkind := k, dphase := ⟨0, by decide⟩ } (phasePattern k 0)).delayRequest
      (phaseHold k) with seq := .wait }

/-- DISPATCH's effect (R87). -/
def dispatchEffect (s : State) : State :=
  match select s.cfg s.cmd with
  | .forward => s.dispatchOnce pForward
  | .rewind => s.dispatchOnce pRewind
  | .play => s.dispatchOnce pPlay
  | .stop => s.dispatchBlocking .stop
  | .idle => s.dispatchBlocking .idle

/-- DISPATCH (R87). -/
def execDispatch (s : State) : Host.Outcome State Fault Refusal :=
  whenEnabled .dispatch s dispatchEffect

end Sys2Proof.Machine
end

