-- ==== Sys2Proof/Machine/Sequencer.lean ====
section
/-! DEFINITION. The foreground sequencer: POLL and DELAY_DONE (spec/44_sequencer.md R100 to R106). -/

namespace Sys2Proof.Machine

/-- POLL's effect (R101). -/
def pollEffect (s : State) : State := { s with seq := if s.full then .drain else .dispatch }

/-- `StartupDone()` (R103): the first capture window opens. -/
def startupDone (s : State) : State := { s with capEn := true, seq := .poll }

/-- `NextPhase()` (R105): the next phase's pattern and request, or back to the loop after the last. -/
def nextPhase (s : State) : State :=
  if h : s.dphase.val + 1 < phaseCount s.dkind ∧ s.dphase.val + 1 < 2 * Config.stopPairs then
    (State.portWrite { s with dphase := ⟨s.dphase.val + 1, h.2⟩ }
      (phasePattern s.dkind (s.dphase.val + 1))).delayRequest (phaseHold s.dkind)
  else { s with seq := .poll }

/-- DELAY_DONE's effect (R102). -/
def delayDoneEffect (s : State) : State :=
  match s.dkind with
  | .startup => startupDone s
  | .stop => nextPhase s
  | .idle => nextPhase s

/-- POLL (R101). -/
def execPoll (s : State) : Host.Outcome State Fault Refusal := whenEnabled .poll s pollEffect

/-- DELAY_DONE (R102). -/
def execDelayDone (s : State) : Host.Outcome State Fault Refusal :=
  whenEnabled .delayDone s delayDoneEffect

end Sys2Proof.Machine
end

