-- ==== Sys2Proof/WellFormed.lean ====
section
/-! DEFINITION. What a well-formed configuration, code, transaction and script is
(spec/00_scope.md R8; spec/30_encoding.md R48, R50, R59). -/

namespace Sys2Proof

/-- Why a configuration is refused (R8, U26). Raised by `Config.ofRaw` alone, before any machine
exists; safe: nothing is claimed of a block that the spec excludes. -/
inductive ConfigRefusal where
  /-- `W < 5` (R8(a)) -/
  | tickWidthTooSmall
  /-- one of the four key codes is 0 (R8(b)) -/
  | zeroCode
  deriving DecidableEq, Repr

/-- Build a configuration, or refuse it: "A model given `W < 5` or a zero code must refuse the
configuration" (R8). -/
def Config.ofRaw (r : RawConfig) : Except ConfigRefusal Config :=
  if h : r.wf = true then .ok { toRawConfig := r, valid := h }
  else if r.tickWidth < Config.minTickWidth then .error .tickWidthTooSmall
  else .error .zeroCode

/-- Codes 0x0 to 0x6 are valid, 0x7 to 0xF reserved (R50, R61). -/
def Code.valid (c : Code) : Bool := c.toNat < Instr.all.length

/-- A transaction has no operand, so none is ill-formed (R48). -/
def Instr.wf (_ : Instr) : Bool := true

/-- A script of codes in which no code is reserved (R50, R59). Whether each transaction is enabled
when it is reached depends on the state and is checked by the machine. -/
def scriptWf (cs : List Code) : Bool := cs.all Code.valid

end Sys2Proof
end

