-- ==== Sys2Proof/Decode.lean ====
section
/-! DEFINITION. Transaction codes and scripts (spec/30_encoding.md R48 to R50, R59, R61): a total
decoder, an encoder from the same table, both lifted to scripts, and the host's word form. -/

namespace Sys2Proof

/-- The decoder of R49 and R50: total; `none` is "invalid", for the reserved codes 0x7 to 0xF. It
reads nothing but the code (R61). -/
def decode (c : Code) : Option Instr :=
  match c.toNat with
  | 0x0 => some .tick
  | 0x1 => some .edge
  | 0x2 => some .delayDone
  | 0x3 => some .reset
  | 0x4 => some .poll
  | 0x5 => some .drain
  | 0x6 => some .dispatch
  | _ => none

/-- The code of a transaction (R49). -/
def encode : Instr → Code
  | .tick => 0x0
  | .edge => 0x1
  | .delayDone => 0x2
  | .reset => 0x3
  | .poll => 0x4
  | .drain => 0x5
  | .dispatch => 0x6

/-- The encoding of a script is "the sequence of the lines' 4-bit codes, in order" (R59). -/
def encodeScript (is : List Instr) : List Code := is.map encode

/-- The transactions of an encoded script, or the position (from 1) and the code of its first
reserved code: "A model refuses a script containing one, naming the position" (R50).
`line` is the position of the first code of the list. -/
def decodeScriptFrom (line : Nat) : List Code → Except (Nat × Code) (List Instr)
  | [] => .ok []
  | c :: cs =>
    match decode c with
    | none => .error (line, c)
    | some i =>
      match decodeScriptFrom (line + 1) cs with
      | .ok is => .ok (i :: is)
      | .error e => .error e

/-- `decodeScriptFrom` for a whole script, whose first line is line 1. -/
def decodeScript (cs : List Code) : Except (Nat × Code) (List Instr) := decodeScriptFrom 1 cs

/-- The transaction code in a word of `nbits` bits as the opcode table numbers bits: a transaction
is exactly 4 bits (R48), so every bit from 4 up has to be 0. -/
def tableCode (nbits w : Nat) : Option Code :=
  let v := w % 2 ^ nbits
  if v < 16 then some (BitVec.ofNat 4 v) else none

/-- The transaction the decoder reads from a word of the opcode table. -/
def decodeTableWord (nbits w : Nat) : Option Instr :=
  match tableCode nbits w with
  | some c => decode c
  | none => none

/-- The mnemonic of R49, as its characters. -/
def Instr.mnemonic : Instr → List Char
  | .tick => ['T', 'I', 'C', 'K']
  | .edge => ['E', 'D', 'G', 'E']
  | .delayDone => ['D', 'E', 'L', 'A', 'Y', '_', 'D', 'O', 'N', 'E']
  | .reset => ['R', 'E', 'S', 'E', 'T']
  | .poll => ['P', 'O', 'L', 'L']
  | .drain => ['D', 'R', 'A', 'I', 'N']
  | .dispatch => ['D', 'I', 'S', 'P', 'A', 'T', 'C', 'H']

/-- The transaction a mnemonic spells. -/
def Instr.ofMnemonic (cs : List Char) : Option Instr :=
  Instr.all.find? fun i => i.mnemonic == cs

end Sys2Proof
end

