-- ==== Sys2Proof/Machine/Fetch.lean ====
section
/-! DEFINITION. Which transaction is taken next. The two agents' choices are the script
(spec/30_encoding.md R59); where the script says nothing, any enabled transaction may be taken
(spec/00_scope.md R6, spec/60_exceptions.md R118), which is a free choice. -/

namespace Sys2Proof.Machine

/-- The transactions whose guard holds. TICK always is among them. -/
def State.enabledTxns (s : State) : List Instr := Instr.all.filter fun i => enabled i s

/-- A free choice among the enabled transactions (R6, R118). -/
def State.freeTxn (s : State) : Instr :=
  s.enabledTxns.getD (Config.freeChoice s.pos % s.enabledTxns.length) .tick

/-- The next transaction: the script's next code, or, with no script left, a free choice. A reserved
code is answered with itself (R50). -/
def State.fetch (s : State) : Except Code Instr :=
  match s.script with
  | [] => .ok s.freeTxn
  | c :: _ =>
    match decode c with
    | some i => .ok i
    | none => .error c

/-- What a step does around the transaction: the script moves on by one line and the transaction
enters the observation (R59, R110). No element of R13 changes. -/
def State.advance (s : State) (i : Instr) : State :=
  { s with script := s.script.tail, pos := s.pos + 1, trace := s.trace ++ [.txn i] }

/-- `SEQ`, the analogue of a program counter, names the foreground transaction that is next (R25). -/
def State.selectTxn (s : State) (i : Instr) : State :=
  match i with
  | .tick => s
  | .edge => s
  | .delayDone => { s with seq := .wait }
  | .reset => s
  | .poll => { s with seq := .poll }
  | .drain => { s with seq := .drain }
  | .dispatch => { s with seq := .dispatch }

/-- The script with its next line replaced. -/
def State.withNextCode (s : State) (c : Code) : State := { s with script := c :: s.script.tail }

/-- Load a script: the transactions the agents take from here on. `pos` goes on, so that a refusal counts
the transactions taken before the load too: line `k` of a script loaded at `pos = n` is position `n + k`
(DESIGN CHOICE, log 19). `decodeScript` counts the lines of the script itself, from 1. -/
def State.load (s : State) (cs : List Code) : State := { s with script := cs }

end Sys2Proof.Machine
end

