-- ==== Sys2Proof/Machine/Step.lean ====
section
/-! DEFINITION. One step: one transaction (spec/00_scope.md R6). -/

namespace Sys2Proof.Machine

/-- Fetch the next transaction, move the script on, and apply it. A reserved code is refused, naming its
position (R50), which counts the transactions fetched since `State.reset` (DESIGN CHOICE, log 19). -/
def step (s : State) : Host.Outcome State Fault Refusal :=
  match s.fetch with
  | .ok i => exec i (s.advance i)
  | .error c => .refused (.reservedCode (s.pos + 1) c)

/-- `s` with a word of the opcode table as its next script line, and with `SEQ` naming it, so that the
next step runs it. A word that is no 4-bit code is stored as a reserved code, which the step refuses. -/
def State.withFetchWord (s : State) (nbits w : Nat) : State :=
  match tableCode nbits w with
  | none => s.withNextCode 0xF
  | some c =>
    match decode c with
    | none => s.withNextCode c
    | some i => (s.withNextCode c).selectTxn i

end Sys2Proof.Machine
end

