-- ==== Sys2Proof/Machine/Script.lean ====
section
/-! DEFINITION. Transaction scripts, the block's "assembly language" (spec/30_encoding.md R59, R60): the
spelling of a line, the pseudo-instructions, and applying transactions in order. -/

namespace Sys2Proof.Machine

/-- Apply transactions in order, each of which has to be enabled when it is reached (R12, R59). -/
def runTxns : List Instr → State → Host.Outcome State Fault Refusal
  | [], s => .next s
  | i :: is, s =>
    match exec i s with
    | .next s' => runTxns is s'
    | .fault f => .fault f
    | .refused r => .refused r

/-- DELAY_DONE repeated while `SEQ = WAIT`, at most `fuel` times. -/
def delaysWhileWaiting : Nat → State → List Instr
  | 0, _ => []
  | k + 1, s => if s.seq = .wait then .delayDone :: delaysWhileWaiting k (delayDoneEffect s) else []

/-- The expansion of `ITER` at a state, whose guard is `SEQ = POLL` (R60): POLL, then DRAIN if POLL
left `SEQ = DRAIN`, then DISPATCH, then the delays of the branch taken. -/
def iterTxns (s : State) : Option (List Instr) :=
  if s.seq = .poll then
    let polled := pollEffect s
    let drained := if polled.seq = .drain then drainEffect polled else polled
    some ((if polled.seq = .drain then [.poll, .drain, .dispatch] else [.poll, .dispatch]) ++
      delaysWhileWaiting (2 * Config.stopPairs) (dispatchEffect drained))
  else none

/-- The expansion of a script line at a state (R60). Only `ITER` depends on the state. -/
def expandLine (l : ScriptLine) (s : State) : Option (List Instr) :=
  match l with
  | .txn i => some [i]
  | .ticks n => some (List.replicate n .tick)
  | .pulse n => some (List.replicate n .tick ++ [.edge])
  | .boot => some [.reset, .delayDone]
  | .iter => iterTxns s

/-- The transactions of a script applied from a stated start state, or nothing if some line is not
enabled when it is reached: "or the script is ill-formed" (R59). -/
def assemble : List ScriptLine → State → Option (List Instr)
  | [], _ => some []
  | l :: ls, s =>
    match expandLine l s with
    | none => none
    | some is =>
      match runTxns is s with
      | .next s' => (assemble ls s').map (is ++ ·)
      | .fault _ => none
      | .refused _ => none

/-- The text of a line before its comment, without blanks at either end (R59). -/
def lineBody (cs : List Char) : List Char :=
  let blank : Char → Bool := fun c => c == ' ' || c == '\t'
  (((cs.takeWhile (· != ';')).dropWhile blank).reverse.dropWhile blank).reverse

/-- A decimal number of one digit or more. -/
def parseNat (cs : List Char) : Option Nat :=
  if cs.isEmpty || !(cs.all fun c => '0' ≤ c && c ≤ '9') then none
  else some (cs.foldl (fun n c => 10 * n + (c.toNat - '0'.toNat)) 0)

/-- The operand of a pseudo-instruction spelled `head` and then a number. -/
def parseAfter (head cs : List Char) : Option Nat :=
  if head.isPrefixOf cs then parseNat (cs.drop head.length) else none

/-- The line a text spells (R59, R60): no line at all for a blank or a comment, and nothing (`none`)
for a text that spells no line. -/
def parseLine (text : List Char) : Option (Option ScriptLine) :=
  let body := lineBody text
  if body.isEmpty then some none
  else if body = ['B', 'O', 'O', 'T'] then some (some .boot)
  else if body = ['I', 'T', 'E', 'R'] then some (some .iter)
  else
    match Instr.ofMnemonic body, parseAfter ['T', 'I', 'C', 'K', '*'] body,
      parseAfter ['P', 'U', 'L', 'S', 'E', ' '] body with
    | some i, _, _ => some (some (.txn i))
    | none, some n, _ => some (some (.ticks n))
    | none, none, some n => some (some (.pulse n))
    | none, none, none => none

/-- The lines of a script text, or nothing if one of them spells no line. -/
def parseScript : List (List Char) → Option (List ScriptLine)
  | [] => some []
  | t :: ts =>
    match parseLine t with
    | none => none
    | some none => parseScript ts
    | some (some l) => (parseScript ts).map (l :: ·)

end Sys2Proof.Machine
end

