-- ==== Sys2Proof/Safety.lean ====
section
/-! DEFINITION. What holds between transactions in every reachable state, what cannot be observed, and
the fair runs that claims of progress are about (spec/10_state.md R16 to R27, spec/20_memory.md R47,
spec/42_decoder.md R74, spec/44_sequencer.md R107). -/

namespace Sys2Proof.Machine

/-- While a delay is outstanding, the request and the phase fit its kind (R26, R27). -/
def DelayFits (s : State) : Prop :=
  match s.dkind with
  | .startup => s.dphase.val = 0 ∧ s.dreqN = Config.dStartup
  | .stop => s.dreqN = Config.dStop
  | .idle => s.dphase.val < 2 ∧ s.dreqN = Config.dIdle

/-- The invariant between transactions. The bounds that the types of `State` carry (`WP <= CAP`,
`BITPOS <= 15`, `DPHASE < 2*STOP_PAIRS`) are not repeated. -/
structure Inv (s : State) : Prop where
  /-- the capture buffer is in canonical form -/
  bufWf : Memory.wf s.buf = true
  /-- every index below `WP` has been written since the last RESET (R47, R69) -/
  recorded : ∀ i, i < s.wp.val → (Memory.entry s.buf i).isSome = true
  /-- "Between transactions `RP` is always 0" (R17) -/
  rpZero : s.rp = 0
  /-- `ACC < 2^BITPOS` (R20, R74) -/
  accBound : s.acc.toNat < 2 ^ s.bitpos.val
  /-- "Whenever the guard holds, `WP = CAP` also holds" (R80) -/
  drainFull : s.seq = .drain → s.wp.val = Config.cap
  /-- the outstanding request fits (R26, R27) -/
  delay : s.seq = .wait → DelayFits s
  /-- `DREQ_N` is always one of the three requests (R27) -/
  request : s.dreqN = Config.dStartup ∨ s.dreqN = Config.dStop ∨ s.dreqN = Config.dIdle
  /-- capture is closed only during the startup delay, and then nothing has been recorded (R24, R65) -/
  closed : s.capEn = false → s.seq = .wait ∧ s.dkind = .startup ∧ s.wp = 0
  /-- capture is never closed under `STARTUP_CAPTURE` (R24) -/
  startupCapture : s.cfg.startupCapture = true → s.capEn = true

/-- Two states that differ at most in what no rule reads: the entries at `WP` and above, and which
draw of unspecified entries holds (R47). -/
def SameButStale (s t : State) : Prop :=
  ∃ b d, t = { s with buf := b, bufDraw := d } ∧
    ∀ i, i < s.wp.val → Memory.entry b i = Memory.entry s.buf i

/-- An infinite run of the block: transaction `τ n` leads from state `σ n` to state `σ (n + 1)`. No
state is final (R109). -/
def IsRun (σ : Nat → State) (τ : Nat → Instr) : Prop :=
  ∀ n, exec (τ n) (σ n) = .next (σ (n + 1))

/-- The fairness of R107: (a) the sequencer's transaction is eventually taken, and (b) every delay
request is eventually answered, "unless a RESET comes first"; (c) asks nothing of TICK and EDGE. -/
structure Fair (σ : Nat → State) (τ : Nat → Instr) : Prop where
  sequencer : ∀ n, (σ n).seq ≠ .wait →
    ∃ m, n ≤ m ∧ ((τ m).agent = .sequencer ∨ τ m = .reset)
  delay : ∀ n, (σ n).seq = .wait → ∃ m, n ≤ m ∧ (τ m = .delayDone ∨ τ m = .reset)

end Sys2Proof.Machine
end

