-- ==== Sys2Proof/Certificates/Slice0/Obligations.lean ====
section
/-! DEFINITION. The statements for the provers. Each docstring names the rule or section of spec/ it
formalises; where a clause is the model's own choice or a decision of the spec, it says so. Literals are
the spec's values (R7), not the model's names for them. -/

open Sys2Proof Sys2Proof.Machine

/-! ### Encoding -/

/-- spec/30_encoding.md section 1 (decision D2) and spec/95_test_vectors.md 2.1: the seven codes, written
out, decode to their transactions. -/
def Obligations.CodesDecodeAsTabulated : Prop :=
  decode 0b0000 = some .tick ∧ decode 0b0001 = some .edge ∧ decode 0b0010 = some .delayDone ∧
  decode 0b0011 = some .reset ∧ decode 0b0100 = some .poll ∧ decode 0b0101 = some .drain ∧
  decode 0b0110 = some .dispatch

/-- spec/30_encoding.md sections 1 and 3 (decisions D2, D19): a script and its codes determine each
other, so no code is read as two transactions and none is dropped. -/
def Obligations.ScriptAndCodesRoundTrip : Prop :=
  (∀ is : List Instr, decodeScript (encodeScript is) = .ok is) ∧
  (∀ (cs : List Code) (is : List Instr), decodeScript cs = .ok is → encodeScript is = cs)

/-- spec/30_encoding.md section 1 (decision D2): a reserved code 0x7 to 0xF spells nothing, a script is
refused at its first reserved code, and a step that meets one is refused. The first clause counts
the lines of the script from 1. That a step refuses when the code is reached, and that its position
counts the transactions fetched since `State.reset`, are the model's choices (logs 8, 19). -/
def Obligations.ReservedCodeRefusedAtItsPosition : Prop :=
  (∀ (is : List Instr) (c : Code) (cs : List Code), 7 ≤ c.toNat →
    decodeScript (encodeScript is ++ c :: cs) = .error (is.length + 1, c)) ∧
  (∀ (s : State) (c : Code) (cs : List Code), s.script = c :: cs → 7 ≤ c.toNat →
    step s = .refused (.reservedCode (s.pos + 1) c))

/-- The model's step (log 1; spec/30_encoding.md section 3): when the next code of the script decodes to
a transaction, the step moves the script on by one line, enters the transaction into the observation,
and is that transaction. -/
def Obligations.StepRunsDecodedTransaction : Prop :=
  ∀ (s : State) (c : Code) (cs : List Code) (i : Instr), s.script = c :: cs → decode c = some i →
    step s = exec i { s with script := cs, pos := s.pos + 1, trace := s.trace ++ [.txn i] }

/-- With no script left, a step takes some transaction whose guard holds, so no state is final
(spec/00_scope.md R6, spec/44_sequencer.md R109). Which one is a free value, and the form is the
model's choice (log 1). -/
def Obligations.FreeStepTakesAnEnabledTransaction : Prop :=
  ∀ s : State, s.script = [] → ∃ i t, enabled i s = true ∧
    step s = exec i { s with pos := s.pos + 1, trace := s.trace ++ [.txn i] } ∧ step s = .next t

/-! ### Guards and refusals -/

/-- The guards of spec/30_encoding.md section 1: TICK, EDGE and RESET always complete; DELAY_DONE, POLL,
DRAIN and DISPATCH complete exactly in the `SEQ` value of their guard, and have no step elsewhere
(decisions D1, D22). What the position in the refusal counts is the model's choice (log 19). -/
def Obligations.TransactionCompletesExactlyWhenEnabled : Prop :=
  ∀ (i : Instr) (s : State),
    ((∃ t, exec i s = .next t) ↔
      match i with
      | .tick => True
      | .edge => True
      | .delayDone => s.seq = .wait
      | .reset => True
      | .poll => s.seq = .poll
      | .drain => s.seq = .drain
      | .dispatch => s.seq = .dispatch) ∧
    ((¬ ∃ t, exec i s = .next t) → exec i s = .refused (.notEnabled s.pos i))

/-- spec/60_exceptions.md section 1 (R111): no step faults, and a step is refused only at a reserved code
of the script or at a scripted transaction that is not enabled. What the position counts is the
model's choice (log 19). -/
def Obligations.OnlyReservedOrDisabledIsRefused : Prop :=
  (∀ (s : State) (f : Fault), step s ≠ .fault f) ∧
  (∀ (s : State) (r : Refusal), step s = .refused r →
    ∃ c cs, s.script = c :: cs ∧
      ((decode c = none ∧ r = .reservedCode (s.pos + 1) c) ∨
       (∃ i, decode c = some i ∧ enabled i s = false ∧ r = .notEnabled (s.pos + 1) i)))

/-! ### TICK and EDGE -/

/-- R62: TICK is enabled in every state, adds one modulo `2^W`, and changes nothing else. -/
def Obligations.TickAdvancesModuloItsWidth : Prop :=
  encode .tick = 0x0 ∧
  ∀ s : State, ∃ v : Stamp s.cfg.tickWidth, v.toNat = (s.tick.toNat + 1) % 2 ^ s.cfg.tickWidth ∧
    exec .tick s = .next { s with tick := v }

/-- R63, R64: EDGE is enabled in every state. With capture open and the buffer not full it writes `TICK`
at index `WP`, leaves every other entry as it was and advances `WP`; otherwise it changes no state. -/
def Obligations.EdgeRecordsTickOrIsLost : Prop :=
  encode .edge = 0x1 ∧
  ∀ s : State,
    (s.capEn = true → s.wp.val < 100 →
      ∃ (b : Memory s.cfg.tickWidth) (p : Fin (Config.cap + 1)),
        exec .edge s = .next { s with buf := b, wp := p } ∧ p.val = s.wp.val + 1 ∧
        State.readEntry { s with buf := b } s.wp.val = s.tick ∧
        ∀ i, i ≠ s.wp.val → State.readEntry { s with buf := b } i = s.readEntry i) ∧
    (s.capEn = false ∨ s.wp.val = 100 → exec .edge s = .next s)

/-- spec/70_reset_and_hazards.md section 3 and spec/20_memory.md R43: from a full buffer on, no
transaction but DRAIN and RESET changes `WP` or any entry, so every edge in between is lost. -/
def Obligations.FullBufferKeepsItsEntriesUntilDrain : Prop :=
  ∀ (is : List Instr) (s t : State), s.wp.val = 100 → Instr.drain ∉ is → Instr.reset ∉ is →
    runTxns is s = .next t →
    t.wp.val = 100 ∧ ∀ i, (t.readEntry i).toNat = (s.readEntry i).toNat

/-- spec/20_memory.md R44 (its derived clause): the duration between two consecutive entries is the
number of TICKs between their EDGEs, modulo `2^W`. -/
def Obligations.RecordedGapCountsTicks : Prop :=
  ∀ (s : State) (n : Nat), s.capEn = true → s.wp.val + 1 < 100 →
    ∃ (v : Stamp s.cfg.tickWidth) (b : Memory s.cfg.tickWidth) (p : Fin (Config.cap + 1)),
      runTxns (.edge :: (List.replicate n .tick ++ [.edge])) s =
        .next { s with tick := v, buf := b, wp := p } ∧
      p.val = s.wp.val + 2 ∧
      (duration (State.readEntry { s with buf := b } (s.wp.val + 1))
        (State.readEntry { s with buf := b } s.wp.val)).toNat = n % 2 ^ s.cfg.tickWidth

/-- spec/60_exceptions.md section 2: the two orders of a simultaneous TICK and EDGE are both runs, and
they record different values: "TICK then EDGE records the incremented value, and EDGE then TICK
records the old one." -/
def Obligations.TickEdgeOrderDecidesTheStamp : Prop :=
  ∀ s : State, s.capEn = true → s.wp.val < 100 →
    ∃ (a b : Memory s.cfg.tickWidth) (p : Fin (Config.cap + 1)), p.val = s.wp.val + 1 ∧
      runTxns [.tick, .edge] s = .next { s with tick := s.tick + 1, buf := a, wp := p } ∧
      runTxns [.edge, .tick] s = .next { s with tick := s.tick + 1, buf := b, wp := p } ∧
      State.readEntry { s with buf := a } s.wp.val = s.tick + 1 ∧
      State.readEntry { s with buf := b } s.wp.val = s.tick

/-! ### Classifier and duration -/

/-- R70, R72: the classes are exactly the ranges of the thresholds 5, 15 and 30, whatever the width, with
their codes. -/
def Obligations.ClassBoundariesAreExact : Prop :=
  ∀ (w : Nat) (d : Stamp w),
    (classify d = .short ↔ d.toNat ≤ 5) ∧
    (classify d = .low ↔ 5 < d.toNat ∧ d.toNat ≤ 15) ∧
    (classify d = .high ↔ 15 < d.toNat ∧ d.toNat ≤ 30) ∧
    (classify d = .long ↔ 30 < d.toNat) ∧
    (classify d).code.toNat =
      (if d.toNat ≤ 5 then 0b00 else if d.toNat ≤ 15 then 0b01 else if d.toNat ≤ 30 then 0b10 else 0b11)

/-- spec/41_classifier.md R73 (derived there): how many durations of a width `W >= 5` fall in each class. -/
def Obligations.ClassSizesForEveryWidth : Prop :=
  ∀ w : Nat, 5 ≤ w →
    (List.range (2 ^ w)).countP (fun n => classify (BitVec.ofNat w n) = .short) = 6 ∧
    (List.range (2 ^ w)).countP (fun n => classify (BitVec.ofNat w n) = .low) = 10 ∧
    (List.range (2 ^ w)).countP (fun n => classify (BitVec.ofNat w n) = .high) = 15 ∧
    (List.range (2 ^ w)).countP (fun n => classify (BitVec.ofNat w n) = .long) = 2 ^ w - 31

/-- spec/41_classifier.md R71 (decision D6, and its derived clauses): the duration is the difference of
the timestamps, corrected by `2^W` across a wrap, and it is the number of ticks between the edges
modulo `2^W`. -/
def Obligations.DurationIsModularDifference : Prop :=
  ∀ (w : Nat) (ts prev : Stamp w),
    (duration ts prev).toNat =
      (if prev.toNat ≤ ts.toNat then ts.toNat - prev.toNat else ts.toNat + 2 ^ w - prev.toNat) ∧
    ∀ n : Nat, (duration (prev + BitVec.ofNat w n) prev).toNat = n % 2 ^ w

/-! ### Decoder and DRAIN -/

/-- R75, with the class actions R77 and R79 and the completion R82: one symbol step, in numbers. The
duration is `(ts - PREV_TS) mod 2^W`. Up to 5 the assembly is kept; above 30 it is cleared; between, the
symbol adds its bit at `BITPOS` (0 up to 15, 1 above), and the one that completes 16 bits latches the
word into `CMD` and clears the assembly. `PREV_TS` takes the timestamp every time. -/
def Obligations.SymbolStepFollowsTheTable : Prop :=
  ∀ (w : Nat) (d : Decoder w) (ts : Stamp w),
    let e := decodeSymbol d ts
    let gap := (ts.toNat + (2 ^ w - d.prevTs.toNat)) % 2 ^ w
    e.prevTs = ts ∧
    (gap ≤ 5 → e.acc = d.acc ∧ e.bitpos = d.bitpos ∧ e.cmd = d.cmd) ∧
    (30 < gap → e.acc = 0 ∧ e.bitpos.val = 0 ∧ e.cmd = d.cmd) ∧
    (5 < gap → gap ≤ 30 →
      let word : CmdWord := if gap ≤ 15 then d.acc else d.acc ||| BitVec.ofNat 16 (2 ^ d.bitpos.val)
      (d.bitpos.val < 15 → e.acc = word ∧ e.bitpos.val = d.bitpos.val + 1 ∧ e.cmd = d.cmd) ∧
      (d.bitpos.val = 15 → e.acc = 0 ∧ e.bitpos.val = 0 ∧ e.cmd = word))

/-- spec/42_decoder.md R74 (derived there): every symbol step keeps `ACC < 2^BITPOS`, so a LOW finds its
bit already 0 (R78). -/
def Obligations.SymbolStepKeepsTheAssemblyBound : Prop :=
  ∀ (w : Nat) (d : Decoder w) (ts : Stamp w), d.acc.toNat < 2 ^ d.bitpos.val →
    (decodeSymbol d ts).acc.toNat < 2 ^ (decodeSymbol d ts).bitpos.val ∧
    d.acc.getLsbD d.bitpos.val = false

/-- R53, with the wire format of R54, and R75 and R82 for `ACC`, `BITPOS` and `PREV_TS`: from the start of a word, gaps of which exactly 16 are LOW or HIGH,
with any SHORT gaps between and no LONG, latch the word whose bit `k` is the `k`-th counted symbol,
HIGH for 1 and LOW for 0. -/
def Obligations.SixteenSymbolsAssembleLsbFirst : Prop :=
  ∀ (w : Nat) (d : Decoder w) (ts : List (Stamp w)), d.bitpos.val = 0 → d.acc = 0 →
    PulseClass.long ∉ gapClasses d.prevTs ts →
    (countedBits (gapClasses d.prevTs ts)).length = 16 →
    (∀ k, k < 16 →
      some ((decodeAll d ts).cmd.getLsbD k) = (countedBits (gapClasses d.prevTs ts))[k]?) ∧
    (decodeAll d ts).acc = 0 ∧ (decodeAll d ts).bitpos.val = 0 ∧
    (decodeAll d ts).prevTs = ts.getLastD d.prevTs

/-- spec/42_decoder.md R85: a frame with fewer than 16 counted symbols before a LONG publishes nothing and leaves no trace
but `PREV_TS`; and one cut by the end of a drain is cleared at the start of the next one (the default
`ACC_PER_DRAIN`, decision D7). -/
def Obligations.PartialFrameIsNeverPublished : Prop :=
  (∀ (w : Nat) (d : Decoder w) (ts : List (Stamp w)), d.bitpos.val = 0 →
    PulseClass.long ∉ gapClasses d.prevTs ts →
    (countedBits (gapClasses d.prevTs ts)).length < 16 →
    (decodeAll d ts).cmd = d.cmd ∧
    (decodeAll d ts).bitpos.val = (countedBits (gapClasses d.prevTs ts)).length ∧
    ∀ t, classify (duration t (decodeAll d ts).prevTs) = .long →
      decodeAll d (ts ++ [t]) = { prevTs := t, acc := 0, bitpos := 0, cmd := d.cmd }) ∧
  (∀ s : State, s.cfg.accPerDrain = true →
    s.drainStart = { prevTs := s.prevTs, acc := 0, bitpos := 0, cmd := s.cmd })

/-- spec/42_decoder.md R86 (derived there): if no word completes, `CMD` is unchanged; and every completed
word takes 16 counted symbols, the ones already in the assembly among them. -/
def Obligations.CommandChangesOnlyOnACompletedWord : Prop :=
  ∀ (w : Nat) (d : Decoder w) (ts : List (Stamp w)),
    (wordsCompleted d ts = 0 → (decodeAll d ts).cmd = d.cmd) ∧
    16 * wordsCompleted d ts + (decodeAll d ts).bitpos.val ≤ d.bitpos.val + ts.length

/-- spec/42_decoder.md R80 (a corner case there, resting on decision D7): a drain completes at most 6
words when `ACC_PER_DRAIN` holds, and at most 7 when it does not. -/
def Obligations.DrainCompletesAtMostSevenWords : Prop :=
  ∀ s : State, wordsCompleted s.drainStart s.drainEntries ≤ if s.cfg.accPerDrain then 6 else 7

/-- spec/42_decoder.md R80, R83, R84 (decisions D7, D11): DRAIN decodes `BUF[RP]` to `BUF[99]` in index
order, from a cleared assembly when `ACC_PER_DRAIN` holds and from the carried one otherwise, with
`PREV_TS` carried over; then both positions are 0 and `SEQ = DISPATCH`. Nothing else changes, the
entries included. -/
def Obligations.DrainDecodesTheBufferInOrder : Prop :=
  encode .drain = 0x5 ∧
  ∀ s : State, s.seq = .drain →
    let start : Decoder s.cfg.tickWidth :=
      if s.cfg.accPerDrain then { prevTs := s.prevTs, acc := 0, bitpos := 0, cmd := s.cmd }
      else { prevTs := s.prevTs, acc := s.acc, bitpos := s.bitpos, cmd := s.cmd }
    let d := decodeAll start ((List.range' s.rp.val (100 - s.rp.val)).map s.readEntry)
    exec .drain s = .next { s with prevTs := d.prevTs, acc := d.acc, bitpos := d.bitpos, cmd := d.cmd,
                                   wp := 0, rp := 0, seq := .dispatch }

/-- spec/42_decoder.md R80, its example: a buffer whose 100 durations all classify LONG leaves `CMD`
unchanged, clears the assembly, and moves `PREV_TS` to `BUF[99]`. That `RP = 0` on entry is R17. -/
def Obligations.AllLongDrainLeavesTheCommand : Prop :=
  ∀ s : State, s.seq = .drain → s.rp = 0 →
    (∀ c ∈ gapClasses s.prevTs ((List.range 100).map s.readEntry), c = .long) →
    exec .drain s = .next { s with prevTs := s.readEntry 99, acc := 0, bitpos := 0, wp := 0, rp := 0,
                                   seq := .dispatch }

/-! ### Dispatcher -/

/-- spec/43_dispatcher.md R88 (decision D4), spec/00_scope.md R8: the first code that equals the value
decides, in the order FORWARD, REWIND, PLAY, STOP; and 0 is IDLE under every configuration. -/
def Obligations.SelectIsAPriorityChain : Prop :=
  ∀ (c : Config) (v : CmdWord),
    (v = c.codeForward → select c v = .forward) ∧
    (v ≠ c.codeForward → v = c.codeRewind → select c v = .rewind) ∧
    (v ≠ c.codeForward → v ≠ c.codeRewind → v = c.codePlay → select c v = .play) ∧
    (v ≠ c.codeForward → v ≠ c.codeRewind → v ≠ c.codePlay → v = c.codeStop → select c v = .stop) ∧
    (v ≠ c.codeForward → v ≠ c.codeRewind → v ≠ c.codePlay → v ≠ c.codeStop → select c v = .idle) ∧
    select c 0 = .idle

/-- spec/43_dispatcher.md, the FORWARD, REWIND and PLAY branches (R90 to R92): one port write of the
branch's pattern, no delay request, and `SEQ <- POLL`. The values 0x8, 0x7 and 0xD rest on the bit layout
of decision D5. -/
def Obligations.KeyCommandsWriteTheirPattern : Prop :=
  ∀ s : State, s.seq = .dispatch →
    (select s.cfg s.cmd = .forward →
      exec .dispatch s =
        .next { s with out := 0x8, seq := .poll, trace := s.trace ++ [.portWrite 0x8] }) ∧
    (select s.cfg s.cmd = .rewind →
      exec .dispatch s =
        .next { s with out := 0x7, seq := .poll, trace := s.trace ++ [.portWrite 0x7] }) ∧
    (select s.cfg s.cmd = .play →
      exec .dispatch s =
        .next { s with out := 0xD, seq := .poll, trace := s.trace ++ [.portWrite 0xD] })

/-- spec/20_memory.md R39 and spec/30_encoding.md section 2: a port write drives all four lines. After each of the three key branches the lines
the source names are active and all other lines are inactive, whatever the lines were before. The
bit positions are decision D5. -/
def Obligations.KeyCommandsDriveExactlyTheNamedLines : Prop :=
  ∀ (s t : State), exec .dispatch s = .next t → ∀ l : Line,
    (select s.cfg s.cmd = .forward → (lineActive t.out l = true ↔ l = .indicator2)) ∧
    (select s.cfg s.cmd = .rewind →
      (lineActive t.out l = true ↔ l = .motor1 ∨ l = .indicator1 ∨ l = .motor2)) ∧
    (select s.cfg s.cmd = .play →
      (lineActive t.out l = true ↔ l = .motor1 ∨ l = .indicator1 ∨ l = .indicator2))

/-- spec/43_dispatcher.md, the IDLE branch (R95): a command that is none of the four keys starts the idle
blink. The value 0x6 rests on the bit layout of decision D5, the registers `DKIND` and `DPHASE` on D13. -/
def Obligations.UnknownCommandStartsTheIdleBlink : Prop :=
  ∀ (s : State) (p : Fin (2 * Config.stopPairs)), p.val = 0 → s.seq = .dispatch →
    select s.cfg s.cmd = .idle →
    exec .dispatch s =
      .next { s with dkind := .idle, dphase := p, out := 0x6, dreqN := 400, seq := .wait,
                     trace := s.trace ++ [.portWrite 0x6, .delayRequest 400] }

/-- spec/43_dispatcher.md R93 (decisions D8, D5): the STOP code starts the STOP sequence. -/
def Obligations.StopCommandStartsTheStopSequence : Prop :=
  ∀ (s : State) (p : Fin (2 * Config.stopPairs)), p.val = 0 → s.seq = .dispatch →
    select s.cfg s.cmd = .stop →
    exec .dispatch s =
      .next { s with dkind := .stop, dphase := p, out := 0xE, dreqN := 50, seq := .wait,
                     trace := s.trace ++ [.portWrite 0xE, .delayRequest 50] }

/-- spec/43_dispatcher.md R94, R98, R99 (decision D8): whatever TICKs and EDGEs fall between its phases,
a STOP sequence runs to its end with the branch it started: after `k` of its 8 delays it has made
exactly its first `k + 1` port writes and requests (all 8 at the end), it returns control exactly
after the 8th, and `CMD` has not changed. -/
def Obligations.StopSequenceRunsToItsEndUnderInterleaving : Prop :=
  ∀ (s t : State) (is : List Instr), s.seq = .dispatch → select s.cfg s.cmd = .stop →
    (∀ i ∈ is, i = .tick ∨ i = .edge ∨ i = .delayDone) →
    runTxns (.dispatch :: is) s = .next t →
    let k := is.count .delayDone
    k ≤ 8 ∧
    t.trace = s.trace ++ ((List.range 8).flatMap fun p =>
      [Event.portWrite (if p % 2 = 0 then 0xE else 0x2), Event.delayRequest 50]).take (2 * (k + 1)) ∧
    t.seq = (if k = 8 then .poll else .wait) ∧ t.dkind = .stop ∧ t.dphase.val = min k 7 ∧
    t.out = (if min k 7 % 2 = 0 then 0xE else 0x2) ∧ t.dreqN = 50 ∧ t.cmd = s.cmd

/-- spec/43_dispatcher.md R96, R98, R99: the same of the idle blink and its 2 phases (Scenario 4). -/
def Obligations.IdleBlinkRunsToItsEndUnderInterleaving : Prop :=
  ∀ (s t : State) (is : List Instr), s.seq = .dispatch → select s.cfg s.cmd = .idle →
    (∀ i ∈ is, i = .tick ∨ i = .edge ∨ i = .delayDone) →
    runTxns (.dispatch :: is) s = .next t →
    let k := is.count .delayDone
    k ≤ 2 ∧
    t.trace = s.trace ++ [Event.portWrite 0x6, Event.delayRequest 400, Event.portWrite 0x2,
      Event.delayRequest 400].take (2 * (k + 1)) ∧
    t.seq = (if k = 2 then .poll else .wait) ∧ t.dkind = .idle ∧ t.dphase.val = min k 1 ∧
    t.out = (if k = 0 then 0x6 else 0x2) ∧ t.dreqN = 400 ∧ t.cmd = s.cmd

/-- spec/20_memory.md R40 and spec/43_dispatcher.md R97: dispatching the same FORWARD, REWIND or PLAY in
the next iteration again changes nothing but the observation. -/
def Obligations.RepeatedDispatchIsIdempotent : Prop :=
  ∀ (s t : State), exec .dispatch s = .next t → t.seq = .poll → s.wp.val < 100 →
    ∃ e, runTxns [.poll, .dispatch] t = .next { t with trace := t.trace ++ [e] } ∧
      e = .portWrite t.out

/-! ### Sequencer -/

/-- R101, with the flag of R66: POLL goes to DRAIN when the buffer is full and to DISPATCH when not, and
changes nothing else. -/
def Obligations.PollTestsFull : Prop :=
  encode .poll = 0x4 ∧
  ∀ s : State, s.seq = .poll →
    exec .poll s = .next { s with seq := if s.wp.val = 100 then .drain else .dispatch }

/-- spec/44_sequencer.md R103 (decision D10): the end of the startup delay opens capture and starts the
loop, and changes nothing else. -/
def Obligations.StartupEndOpensCapture : Prop :=
  ∀ s : State, s.seq = .wait → s.dkind = .startup →
    exec .delayDone s = .next { s with capEn := true, seq := .poll }

/-- spec/44_sequencer.md R105 (decision D8): while phases remain, DELAY_DONE moves to the next phase, with
its port write and its request; after the last phase it returns to the loop and writes nothing. -/
def Obligations.DelayDoneStepsThePhases : Prop :=
  ∀ (s : State), s.seq = .wait → s.dkind ≠ .startup →
    let n := if s.dkind = .stop then 8 else 2
    let hold := if s.dkind = .stop then 50 else 400
    (∀ q : Fin (2 * Config.stopPairs), q.val = s.dphase.val + 1 → q.val < n →
      let p : Port := if q.val % 2 = 1 then 0x2 else 0xE
      exec .delayDone s =
        .next { s with dphase := q, out := p, dreqN := hold,
                       trace := s.trace ++ [.portWrite p, .delayRequest hold] }) ∧
    (n ≤ s.dphase.val + 1 → exec .delayDone s = .next { s with seq := .poll })

/-- spec/44_sequencer.md R100 (decision D9), the transition table in full: what `SEQ` is after each
transaction. -/
def Obligations.SequencerFollowsTheTransitionTable : Prop :=
  ∀ (i : Instr) (s t : State), exec i s = .next t →
    match i with
    | .tick => t.seq = s.seq ∧ t.dkind = s.dkind ∧ t.dphase = s.dphase
    | .edge => t.seq = s.seq ∧ t.dkind = s.dkind ∧ t.dphase = s.dphase
    | .delayDone => s.seq = .wait ∧ t.dkind = s.dkind ∧
        (t.seq = .wait ↔ (s.dkind = .stop ∧ s.dphase.val + 1 < 8) ∨
          (s.dkind = .idle ∧ s.dphase.val + 1 < 2)) ∧
        (t.seq ≠ .wait → t.seq = .poll)
    | .reset => t.seq = .wait ∧ t.dkind = .startup ∧ t.dphase.val = 0
    | .poll => s.seq = .poll ∧ t.seq = if s.wp.val = 100 then .drain else .dispatch
    | .drain => s.seq = .drain ∧ t.seq = .dispatch
    | .dispatch => s.seq = .dispatch ∧
        t.seq = match select s.cfg s.cmd with
          | .forward => .poll
          | .rewind => .poll
          | .play => .poll
          | .stop => .wait
          | .idle => .wait

/-- spec/44_sequencer.md R106 (decision D9) and R101: once POLL has found the buffer full, no dispatch
comes before the drain, whatever TICKs and EDGEs intervene; and the drain empties the buffer. -/
def Obligations.FullPollDrainsBeforeDispatch : Prop :=
  ∀ (s : State) (is : List Instr), s.seq = .poll → s.wp.val = 100 →
    (∀ i ∈ is, i = .tick ∨ i = .edge) →
    runTxns (.poll :: (is ++ [.dispatch])) s = .refused (.notEnabled s.pos .dispatch) ∧
    ∃ t, runTxns (.poll :: (is ++ [.drain])) s = .next t ∧ t.seq = .dispatch ∧ t.wp = 0 ∧ t.rp = 0

/-- spec/30_encoding.md R60 (derived there; decision D19): `ITER` is one full iteration. It completes
from every state at `SEQ = POLL`, ends there, and has length 2, plus 1 if the buffer was full, plus
the phases of the branch taken. -/
def Obligations.IterationReturnsToPollWithItsLength : Prop :=
  ∀ s : State, s.seq = .poll → ∃ is t, iterTxns s = some is ∧ runTxns is s = .next t ∧
    t.seq = .poll ∧
    is.length = 2 + (if s.wp.val = 100 then 1 else 0) +
      (match select t.cfg t.cmd with
        | .forward => 0
        | .rewind => 0
        | .play => 0
        | .stop => 8
        | .idle => 2)

/-- spec/44_sequencer.md R107 (decision D27), with its fairness as premises: in every fair run, from any
point after which no RESET comes, the loop returns to POLL. -/
def Obligations.FairRunReturnsToPoll : Prop :=
  ∀ (σ : Nat → State) (τ : Nat → Instr), IsRun σ τ → Fair σ τ →
    ∀ n, (∀ m, n ≤ m → τ m ≠ .reset) → ∃ m, n ≤ m ∧ (σ m).seq = .poll

/-! ### Whole-machine rules -/

/-- spec/10_state.md R13, column "written by", and R29: each element is written only by the transactions
listed for it, and the configuration by none. This is the frame of all seven transactions; the
script and its position are the step's. -/
def Obligations.EachElementHasOnlyItsWriters : Prop :=
  ∀ (i : Instr) (s t : State), exec i s = .next t →
    t.cfg = s.cfg ∧ t.script = s.script ∧ t.pos = s.pos ∧
    (t.tick.toNat ≠ s.tick.toNat → i = .tick ∨ i = .reset) ∧
    (∀ k, (t.readEntry k).toNat ≠ (s.readEntry k).toNat →
      i = .reset ∨ (i = .edge ∧ k = s.wp.val)) ∧
    (t.wp ≠ s.wp → i = .edge ∨ i = .drain ∨ i = .reset) ∧
    (t.rp ≠ s.rp → i = .drain ∨ i = .reset) ∧
    (t.prevTs.toNat ≠ s.prevTs.toNat → i = .drain ∨ i = .reset) ∧
    (t.acc ≠ s.acc → i = .drain ∨ i = .reset) ∧
    (t.bitpos ≠ s.bitpos → i = .drain ∨ i = .reset) ∧
    (t.cmd ≠ s.cmd → i = .drain ∨ i = .reset) ∧
    (t.out ≠ s.out → i = .dispatch ∨ i = .delayDone ∨ i = .reset) ∧
    (t.capEn ≠ s.capEn → (i = .delayDone ∧ s.dkind = .startup) ∨ i = .reset) ∧
    (t.seq ≠ s.seq → i = .poll ∨ i = .drain ∨ i = .dispatch ∨ i = .delayDone ∨ i = .reset) ∧
    (t.dkind ≠ s.dkind → i = .dispatch ∨ i = .reset) ∧
    (t.dphase ≠ s.dphase → i = .dispatch ∨ i = .delayDone ∨ i = .reset) ∧
    (t.dreqN ≠ s.dreqN → i = .dispatch ∨ i = .delayDone ∨ i = .reset)

/-- spec/43_dispatcher.md R89 and spec/44_sequencer.md R104, R110: the observation only grows, and apart
from RESET the output port and the request are what the last events written to them say. RESET
clears the port without a port write, and makes the startup request (R125). -/
def Obligations.ObservationDeterminesTheBoundary : Prop :=
  ∀ (i : Instr) (s t : State), exec i s = .next t → ∃ es, t.trace = s.trace ++ es ∧
    t.dreqN = es.foldl (fun n e => match e with | .delayRequest m => m | _ => n) s.dreqN ∧
    (i ≠ .reset → t.out = es.foldl (fun o e => match e with | .portWrite p => p | _ => o) s.out) ∧
    (i = .reset → t.out = 0 ∧ es = [.delayRequest 1000])

/-- R8, U26: a configuration with `W < 5` or a zero code is refused, every other one is accepted as it
is, and in an accepted one the least LONG duration can be represented. -/
def Obligations.OnlyLegalConfigurationsAreAccepted : Prop :=
  (∀ r : RawConfig, (r.tickWidth < 5 ∨ r.codeForward = 0 ∨ r.codeRewind = 0 ∨ r.codePlay = 0 ∨
      r.codeStop = 0) ↔ ∃ e, Config.ofRaw r = .error e) ∧
  (∀ (r : RawConfig) (c : Config), Config.ofRaw r = .ok c → c.toRawConfig = r) ∧
  (∀ c : Config, ∃ d : Stamp c.tickWidth, d.toNat = 31 ∧ classify d = .long)

/-! ### Reset -/

/-- spec/70_reset_and_hazards.md R125 and the table of spec/10_state.md R32 (decisions D10, D12, D20):
RESET is enabled in every state and gives every element its reset value; the entries of the buffer
are any values. The script and the observation are the model's and go on (logs 1, 10). -/
def Obligations.ResetGivesEveryElementItsValue : Prop :=
  encode .reset = 0x3 ∧
  ∀ (s : State) (p : Fin (2 * Config.stopPairs)), p.val = 0 →
    ∃ (b : Memory s.cfg.tickWidth) (d : Nat),
      exec .reset s = .next
        { s with tick := 0, buf := b, wp := 0, rp := 0, prevTs := 0, acc := 0, bitpos := 0, cmd := 0,
                 out := 0, capEn := s.cfg.startupCapture, seq := .wait, dkind := .startup, dphase := p,
                 dreqN := 1000, trace := s.trace ++ [.delayRequest 1000], bufDraw := d }

/-- spec/44_sequencer.md section 1 and spec/30_encoding.md R60 (decisions D10, D19): `BOOT` leads from
every state to an open capture window and `SEQ = POLL`, and the first iteration after it, with
nothing captured, is the idle blink ("de-facto startup behavior", R97). -/
def Obligations.BootLeadsToTheIdleBlink : Prop :=
  ∀ s : State, ∃ t, runTxns [.reset, .delayDone, .poll, .dispatch, .delayDone, .delayDone] s = .next t ∧
    t.trace = s.trace ++ [.delayRequest 1000, .portWrite 0x6, .delayRequest 400, .portWrite 0x2,
      .delayRequest 400] ∧
    t.seq = .poll ∧ t.capEn = true ∧ t.out = 0x2 ∧ t.cmd = 0 ∧ t.wp = 0 ∧ t.tick.toNat = 0

/-! ### Invariants -/

/-- The invariant holds right after reset, for the block and for every legal configuration. -/
def Obligations.InvariantHoldsAtReset : Prop :=
  Inv State.reset ∧ ∀ c : Config, Inv (State.resetWith c)

/-- spec/10_state.md R16, R17, R20, R24, R26, R27, spec/42_decoder.md R74, R80 and spec/20_memory.md R47
(derived there): every step, scripted or free, keeps the invariant. -/
def Obligations.EveryStepKeepsTheInvariant : Prop :=
  ∀ s t : State, Inv s → step s = .next t → Inv t

/-- spec/20_memory.md R47 (derived there): stale and unspecified entries cannot be observed. Two states
that differ in them alone take the same steps, with the same observation and the same outputs. -/
def Obligations.StaleEntriesAreUnobservable : Prop :=
  ∀ s t : State, Inv s → SameButStale s t →
    (∀ s', step s = .next s' → ∃ t', step t = .next t' ∧ SameButStale s' t' ∧
      t'.trace = s'.trace ∧ t'.out = s'.out) ∧
    (∀ r, step s = .refused r → step t = .refused r)
end

