-- ==== Sys2Proof/Laws/Config.lean ====
section
/-! SUPPORT. What a legal configuration gives (spec/00_scope.md R8). -/

namespace Sys2Proof

/-- R8(a) and R8(b), as propositions. -/
theorem RawConfig.wf_iff (r : RawConfig) :
    r.wf = true ↔ 5 ≤ r.tickWidth ∧ r.codeForward ≠ 0 ∧ r.codeRewind ≠ 0 ∧ r.codePlay ≠ 0 ∧
      r.codeStop ≠ 0 := by
  simp only [RawConfig.wf, Bool.and_eq_true, bne_iff_ne]
  exact ⟨fun ⟨⟨⟨⟨a, b⟩, c⟩, d⟩, e⟩ => ⟨of_decide_eq_true a, b, c, d, e⟩,
    fun ⟨a, b, c, d, e⟩ => ⟨⟨⟨⟨decide_eq_true a, b⟩, c⟩, d⟩, e⟩⟩

theorem Config.five_le_tickWidth (c : Config) : 5 ≤ c.tickWidth :=
  ((RawConfig.wf_iff _).mp c.valid).1

/-- The least LONG duration, 31, is below `2^W`. -/
theorem Config.thirtyTwo_le_two_pow (c : Config) : 32 ≤ 2 ^ c.tickWidth :=
  Nat.pow_le_pow_right (n := 2) (by decide) c.five_le_tickWidth

theorem Config.codes_ne_zero (c : Config) :
    c.codeForward ≠ 0 ∧ c.codeRewind ≠ 0 ∧ c.codePlay ≠ 0 ∧ c.codeStop ≠ 0 :=
  ((RawConfig.wf_iff _).mp c.valid).2

end Sys2Proof
end

