-- ==== Sys2Proof/Laws/State.lean ====
section
/-! SUPPORT. One lemma per field per named update of State, true by unfolding, so that no proof unfolds
a record update again. -/

namespace Sys2Proof.Machine

variable (s : State)

/-! ### `State.writeEntry`: `BUF[i] <- v` -/

@[simp] theorem State.writeEntry_cfg (i : Nat) (v : Stamp s.cfg.tickWidth) : (s.writeEntry i v).cfg = s.cfg := rfl
@[simp] theorem State.writeEntry_tick (i : Nat) (v : Stamp s.cfg.tickWidth) : (s.writeEntry i v).tick = s.tick := rfl
@[simp] theorem State.writeEntry_buf (i : Nat) (v : Stamp s.cfg.tickWidth) : (s.writeEntry i v).buf = Memory.write s.buf i v := rfl
@[simp] theorem State.writeEntry_wp (i : Nat) (v : Stamp s.cfg.tickWidth) : (s.writeEntry i v).wp = s.wp := rfl
@[simp] theorem State.writeEntry_rp (i : Nat) (v : Stamp s.cfg.tickWidth) : (s.writeEntry i v).rp = s.rp := rfl
@[simp] theorem State.writeEntry_prevTs (i : Nat) (v : Stamp s.cfg.tickWidth) : (s.writeEntry i v).prevTs = s.prevTs := rfl
@[simp] theorem State.writeEntry_acc (i : Nat) (v : Stamp s.cfg.tickWidth) : (s.writeEntry i v).acc = s.acc := rfl
@[simp] theorem State.writeEntry_bitpos (i : Nat) (v : Stamp s.cfg.tickWidth) : (s.writeEntry i v).bitpos = s.bitpos := rfl
@[simp] theorem State.writeEntry_cmd (i : Nat) (v : Stamp s.cfg.tickWidth) : (s.writeEntry i v).cmd = s.cmd := rfl
@[simp] theorem State.writeEntry_out (i : Nat) (v : Stamp s.cfg.tickWidth) : (s.writeEntry i v).out = s.out := rfl
@[simp] theorem State.writeEntry_capEn (i : Nat) (v : Stamp s.cfg.tickWidth) : (s.writeEntry i v).capEn = s.capEn := rfl
@[simp] theorem State.writeEntry_seq (i : Nat) (v : Stamp s.cfg.tickWidth) : (s.writeEntry i v).seq = s.seq := rfl
@[simp] theorem State.writeEntry_dkind (i : Nat) (v : Stamp s.cfg.tickWidth) : (s.writeEntry i v).dkind = s.dkind := rfl
@[simp] theorem State.writeEntry_dphase (i : Nat) (v : Stamp s.cfg.tickWidth) : (s.writeEntry i v).dphase = s.dphase := rfl
@[simp] theorem State.writeEntry_dreqN (i : Nat) (v : Stamp s.cfg.tickWidth) : (s.writeEntry i v).dreqN = s.dreqN := rfl
@[simp] theorem State.writeEntry_script (i : Nat) (v : Stamp s.cfg.tickWidth) : (s.writeEntry i v).script = s.script := rfl
@[simp] theorem State.writeEntry_pos (i : Nat) (v : Stamp s.cfg.tickWidth) : (s.writeEntry i v).pos = s.pos := rfl
@[simp] theorem State.writeEntry_trace (i : Nat) (v : Stamp s.cfg.tickWidth) : (s.writeEntry i v).trace = s.trace := rfl
@[simp] theorem State.writeEntry_bufDraw (i : Nat) (v : Stamp s.cfg.tickWidth) : (s.writeEntry i v).bufDraw = s.bufDraw := rfl

/-! ### `State.bufReset`: `BufReset` -/

@[simp] theorem State.bufReset_cfg : (s.bufReset).cfg = s.cfg := rfl
@[simp] theorem State.bufReset_tick : (s.bufReset).tick = s.tick := rfl
@[simp] theorem State.bufReset_buf : (s.bufReset).buf = s.buf := rfl
@[simp] theorem State.bufReset_wp : (s.bufReset).wp = 0 := rfl
@[simp] theorem State.bufReset_rp : (s.bufReset).rp = 0 := rfl
@[simp] theorem State.bufReset_prevTs : (s.bufReset).prevTs = s.prevTs := rfl
@[simp] theorem State.bufReset_acc : (s.bufReset).acc = s.acc := rfl
@[simp] theorem State.bufReset_bitpos : (s.bufReset).bitpos = s.bitpos := rfl
@[simp] theorem State.bufReset_cmd : (s.bufReset).cmd = s.cmd := rfl
@[simp] theorem State.bufReset_out : (s.bufReset).out = s.out := rfl
@[simp] theorem State.bufReset_capEn : (s.bufReset).capEn = s.capEn := rfl
@[simp] theorem State.bufReset_seq : (s.bufReset).seq = s.seq := rfl
@[simp] theorem State.bufReset_dkind : (s.bufReset).dkind = s.dkind := rfl
@[simp] theorem State.bufReset_dphase : (s.bufReset).dphase = s.dphase := rfl
@[simp] theorem State.bufReset_dreqN : (s.bufReset).dreqN = s.dreqN := rfl
@[simp] theorem State.bufReset_script : (s.bufReset).script = s.script := rfl
@[simp] theorem State.bufReset_pos : (s.bufReset).pos = s.pos := rfl
@[simp] theorem State.bufReset_trace : (s.bufReset).trace = s.trace := rfl
@[simp] theorem State.bufReset_bufDraw : (s.bufReset).bufDraw = s.bufDraw := rfl

/-! ### `State.drawBuffer`: a new draw of the entries -/

@[simp] theorem State.drawBuffer_cfg : (s.drawBuffer).cfg = s.cfg := rfl
@[simp] theorem State.drawBuffer_tick : (s.drawBuffer).tick = s.tick := rfl
@[simp] theorem State.drawBuffer_buf : (s.drawBuffer).buf = [] := rfl
@[simp] theorem State.drawBuffer_wp : (s.drawBuffer).wp = s.wp := rfl
@[simp] theorem State.drawBuffer_rp : (s.drawBuffer).rp = s.rp := rfl
@[simp] theorem State.drawBuffer_prevTs : (s.drawBuffer).prevTs = s.prevTs := rfl
@[simp] theorem State.drawBuffer_acc : (s.drawBuffer).acc = s.acc := rfl
@[simp] theorem State.drawBuffer_bitpos : (s.drawBuffer).bitpos = s.bitpos := rfl
@[simp] theorem State.drawBuffer_cmd : (s.drawBuffer).cmd = s.cmd := rfl
@[simp] theorem State.drawBuffer_out : (s.drawBuffer).out = s.out := rfl
@[simp] theorem State.drawBuffer_capEn : (s.drawBuffer).capEn = s.capEn := rfl
@[simp] theorem State.drawBuffer_seq : (s.drawBuffer).seq = s.seq := rfl
@[simp] theorem State.drawBuffer_dkind : (s.drawBuffer).dkind = s.dkind := rfl
@[simp] theorem State.drawBuffer_dphase : (s.drawBuffer).dphase = s.dphase := rfl
@[simp] theorem State.drawBuffer_dreqN : (s.drawBuffer).dreqN = s.dreqN := rfl
@[simp] theorem State.drawBuffer_script : (s.drawBuffer).script = s.script := rfl
@[simp] theorem State.drawBuffer_pos : (s.drawBuffer).pos = s.pos := rfl
@[simp] theorem State.drawBuffer_trace : (s.drawBuffer).trace = s.trace := rfl
@[simp] theorem State.drawBuffer_bufDraw : (s.drawBuffer).bufDraw = s.bufDraw + 1 := rfl

/-! ### `State.record`: one event -/

@[simp] theorem State.record_cfg (e : Event) : (s.record e).cfg = s.cfg := rfl
@[simp] theorem State.record_tick (e : Event) : (s.record e).tick = s.tick := rfl
@[simp] theorem State.record_buf (e : Event) : (s.record e).buf = s.buf := rfl
@[simp] theorem State.record_wp (e : Event) : (s.record e).wp = s.wp := rfl
@[simp] theorem State.record_rp (e : Event) : (s.record e).rp = s.rp := rfl
@[simp] theorem State.record_prevTs (e : Event) : (s.record e).prevTs = s.prevTs := rfl
@[simp] theorem State.record_acc (e : Event) : (s.record e).acc = s.acc := rfl
@[simp] theorem State.record_bitpos (e : Event) : (s.record e).bitpos = s.bitpos := rfl
@[simp] theorem State.record_cmd (e : Event) : (s.record e).cmd = s.cmd := rfl
@[simp] theorem State.record_out (e : Event) : (s.record e).out = s.out := rfl
@[simp] theorem State.record_capEn (e : Event) : (s.record e).capEn = s.capEn := rfl
@[simp] theorem State.record_seq (e : Event) : (s.record e).seq = s.seq := rfl
@[simp] theorem State.record_dkind (e : Event) : (s.record e).dkind = s.dkind := rfl
@[simp] theorem State.record_dphase (e : Event) : (s.record e).dphase = s.dphase := rfl
@[simp] theorem State.record_dreqN (e : Event) : (s.record e).dreqN = s.dreqN := rfl
@[simp] theorem State.record_script (e : Event) : (s.record e).script = s.script := rfl
@[simp] theorem State.record_pos (e : Event) : (s.record e).pos = s.pos := rfl
@[simp] theorem State.record_trace (e : Event) : (s.record e).trace = s.trace ++ [e] := rfl
@[simp] theorem State.record_bufDraw (e : Event) : (s.record e).bufDraw = s.bufDraw := rfl

/-! ### `State.portWrite`: `PortWrite(p)` -/

@[simp] theorem State.portWrite_cfg (p : Port) : (s.portWrite p).cfg = s.cfg := rfl
@[simp] theorem State.portWrite_tick (p : Port) : (s.portWrite p).tick = s.tick := rfl
@[simp] theorem State.portWrite_buf (p : Port) : (s.portWrite p).buf = s.buf := rfl
@[simp] theorem State.portWrite_wp (p : Port) : (s.portWrite p).wp = s.wp := rfl
@[simp] theorem State.portWrite_rp (p : Port) : (s.portWrite p).rp = s.rp := rfl
@[simp] theorem State.portWrite_prevTs (p : Port) : (s.portWrite p).prevTs = s.prevTs := rfl
@[simp] theorem State.portWrite_acc (p : Port) : (s.portWrite p).acc = s.acc := rfl
@[simp] theorem State.portWrite_bitpos (p : Port) : (s.portWrite p).bitpos = s.bitpos := rfl
@[simp] theorem State.portWrite_cmd (p : Port) : (s.portWrite p).cmd = s.cmd := rfl
@[simp] theorem State.portWrite_out (p : Port) : (s.portWrite p).out = p := rfl
@[simp] theorem State.portWrite_capEn (p : Port) : (s.portWrite p).capEn = s.capEn := rfl
@[simp] theorem State.portWrite_seq (p : Port) : (s.portWrite p).seq = s.seq := rfl
@[simp] theorem State.portWrite_dkind (p : Port) : (s.portWrite p).dkind = s.dkind := rfl
@[simp] theorem State.portWrite_dphase (p : Port) : (s.portWrite p).dphase = s.dphase := rfl
@[simp] theorem State.portWrite_dreqN (p : Port) : (s.portWrite p).dreqN = s.dreqN := rfl
@[simp] theorem State.portWrite_script (p : Port) : (s.portWrite p).script = s.script := rfl
@[simp] theorem State.portWrite_pos (p : Port) : (s.portWrite p).pos = s.pos := rfl
@[simp] theorem State.portWrite_trace (p : Port) : (s.portWrite p).trace = s.trace ++ [.portWrite p] := rfl
@[simp] theorem State.portWrite_bufDraw (p : Port) : (s.portWrite p).bufDraw = s.bufDraw := rfl

/-! ### `State.delayRequest`: `DelayRequest(n)` -/

@[simp] theorem State.delayRequest_cfg (n : Nat) : (s.delayRequest n).cfg = s.cfg := rfl
@[simp] theorem State.delayRequest_tick (n : Nat) : (s.delayRequest n).tick = s.tick := rfl
@[simp] theorem State.delayRequest_buf (n : Nat) : (s.delayRequest n).buf = s.buf := rfl
@[simp] theorem State.delayRequest_wp (n : Nat) : (s.delayRequest n).wp = s.wp := rfl
@[simp] theorem State.delayRequest_rp (n : Nat) : (s.delayRequest n).rp = s.rp := rfl
@[simp] theorem State.delayRequest_prevTs (n : Nat) : (s.delayRequest n).prevTs = s.prevTs := rfl
@[simp] theorem State.delayRequest_acc (n : Nat) : (s.delayRequest n).acc = s.acc := rfl
@[simp] theorem State.delayRequest_bitpos (n : Nat) : (s.delayRequest n).bitpos = s.bitpos := rfl
@[simp] theorem State.delayRequest_cmd (n : Nat) : (s.delayRequest n).cmd = s.cmd := rfl
@[simp] theorem State.delayRequest_out (n : Nat) : (s.delayRequest n).out = s.out := rfl
@[simp] theorem State.delayRequest_capEn (n : Nat) : (s.delayRequest n).capEn = s.capEn := rfl
@[simp] theorem State.delayRequest_seq (n : Nat) : (s.delayRequest n).seq = s.seq := rfl
@[simp] theorem State.delayRequest_dkind (n : Nat) : (s.delayRequest n).dkind = s.dkind := rfl
@[simp] theorem State.delayRequest_dphase (n : Nat) : (s.delayRequest n).dphase = s.dphase := rfl
@[simp] theorem State.delayRequest_dreqN (n : Nat) : (s.delayRequest n).dreqN = n := rfl
@[simp] theorem State.delayRequest_script (n : Nat) : (s.delayRequest n).script = s.script := rfl
@[simp] theorem State.delayRequest_pos (n : Nat) : (s.delayRequest n).pos = s.pos := rfl
@[simp] theorem State.delayRequest_trace (n : Nat) : (s.delayRequest n).trace = s.trace ++ [.delayRequest n] := rfl
@[simp] theorem State.delayRequest_bufDraw (n : Nat) : (s.delayRequest n).bufDraw = s.bufDraw := rfl

/-! ### `State.setDecoder`: the decoder's registers -/

@[simp] theorem State.setDecoder_cfg (d : Decoder s.cfg.tickWidth) : (s.setDecoder d).cfg = s.cfg := rfl
@[simp] theorem State.setDecoder_tick (d : Decoder s.cfg.tickWidth) : (s.setDecoder d).tick = s.tick := rfl
@[simp] theorem State.setDecoder_buf (d : Decoder s.cfg.tickWidth) : (s.setDecoder d).buf = s.buf := rfl
@[simp] theorem State.setDecoder_wp (d : Decoder s.cfg.tickWidth) : (s.setDecoder d).wp = s.wp := rfl
@[simp] theorem State.setDecoder_rp (d : Decoder s.cfg.tickWidth) : (s.setDecoder d).rp = s.rp := rfl
@[simp] theorem State.setDecoder_prevTs (d : Decoder s.cfg.tickWidth) : (s.setDecoder d).prevTs = d.prevTs := rfl
@[simp] theorem State.setDecoder_acc (d : Decoder s.cfg.tickWidth) : (s.setDecoder d).acc = d.acc := rfl
@[simp] theorem State.setDecoder_bitpos (d : Decoder s.cfg.tickWidth) : (s.setDecoder d).bitpos = d.bitpos := rfl
@[simp] theorem State.setDecoder_cmd (d : Decoder s.cfg.tickWidth) : (s.setDecoder d).cmd = d.cmd := rfl
@[simp] theorem State.setDecoder_out (d : Decoder s.cfg.tickWidth) : (s.setDecoder d).out = s.out := rfl
@[simp] theorem State.setDecoder_capEn (d : Decoder s.cfg.tickWidth) : (s.setDecoder d).capEn = s.capEn := rfl
@[simp] theorem State.setDecoder_seq (d : Decoder s.cfg.tickWidth) : (s.setDecoder d).seq = s.seq := rfl
@[simp] theorem State.setDecoder_dkind (d : Decoder s.cfg.tickWidth) : (s.setDecoder d).dkind = s.dkind := rfl
@[simp] theorem State.setDecoder_dphase (d : Decoder s.cfg.tickWidth) : (s.setDecoder d).dphase = s.dphase := rfl
@[simp] theorem State.setDecoder_dreqN (d : Decoder s.cfg.tickWidth) : (s.setDecoder d).dreqN = s.dreqN := rfl
@[simp] theorem State.setDecoder_script (d : Decoder s.cfg.tickWidth) : (s.setDecoder d).script = s.script := rfl
@[simp] theorem State.setDecoder_pos (d : Decoder s.cfg.tickWidth) : (s.setDecoder d).pos = s.pos := rfl
@[simp] theorem State.setDecoder_trace (d : Decoder s.cfg.tickWidth) : (s.setDecoder d).trace = s.trace := rfl
@[simp] theorem State.setDecoder_bufDraw (d : Decoder s.cfg.tickWidth) : (s.setDecoder d).bufDraw = s.bufDraw := rfl

/-! ### `State.advance`: what a step does around a transaction -/

@[simp] theorem State.advance_cfg (i : Instr) : (s.advance i).cfg = s.cfg := rfl
@[simp] theorem State.advance_tick (i : Instr) : (s.advance i).tick = s.tick := rfl
@[simp] theorem State.advance_buf (i : Instr) : (s.advance i).buf = s.buf := rfl
@[simp] theorem State.advance_wp (i : Instr) : (s.advance i).wp = s.wp := rfl
@[simp] theorem State.advance_rp (i : Instr) : (s.advance i).rp = s.rp := rfl
@[simp] theorem State.advance_prevTs (i : Instr) : (s.advance i).prevTs = s.prevTs := rfl
@[simp] theorem State.advance_acc (i : Instr) : (s.advance i).acc = s.acc := rfl
@[simp] theorem State.advance_bitpos (i : Instr) : (s.advance i).bitpos = s.bitpos := rfl
@[simp] theorem State.advance_cmd (i : Instr) : (s.advance i).cmd = s.cmd := rfl
@[simp] theorem State.advance_out (i : Instr) : (s.advance i).out = s.out := rfl
@[simp] theorem State.advance_capEn (i : Instr) : (s.advance i).capEn = s.capEn := rfl
@[simp] theorem State.advance_seq (i : Instr) : (s.advance i).seq = s.seq := rfl
@[simp] theorem State.advance_dkind (i : Instr) : (s.advance i).dkind = s.dkind := rfl
@[simp] theorem State.advance_dphase (i : Instr) : (s.advance i).dphase = s.dphase := rfl
@[simp] theorem State.advance_dreqN (i : Instr) : (s.advance i).dreqN = s.dreqN := rfl
@[simp] theorem State.advance_script (i : Instr) : (s.advance i).script = s.script.tail := rfl
@[simp] theorem State.advance_pos (i : Instr) : (s.advance i).pos = s.pos + 1 := rfl
@[simp] theorem State.advance_trace (i : Instr) : (s.advance i).trace = s.trace ++ [.txn i] := rfl
@[simp] theorem State.advance_bufDraw (i : Instr) : (s.advance i).bufDraw = s.bufDraw := rfl

/-! ### `State.dispatchOnce`: a branch of one port write -/

@[simp] theorem State.dispatchOnce_cfg (p : Port) : (s.dispatchOnce p).cfg = s.cfg := rfl
@[simp] theorem State.dispatchOnce_tick (p : Port) : (s.dispatchOnce p).tick = s.tick := rfl
@[simp] theorem State.dispatchOnce_buf (p : Port) : (s.dispatchOnce p).buf = s.buf := rfl
@[simp] theorem State.dispatchOnce_wp (p : Port) : (s.dispatchOnce p).wp = s.wp := rfl
@[simp] theorem State.dispatchOnce_rp (p : Port) : (s.dispatchOnce p).rp = s.rp := rfl
@[simp] theorem State.dispatchOnce_prevTs (p : Port) : (s.dispatchOnce p).prevTs = s.prevTs := rfl
@[simp] theorem State.dispatchOnce_acc (p : Port) : (s.dispatchOnce p).acc = s.acc := rfl
@[simp] theorem State.dispatchOnce_bitpos (p : Port) : (s.dispatchOnce p).bitpos = s.bitpos := rfl
@[simp] theorem State.dispatchOnce_cmd (p : Port) : (s.dispatchOnce p).cmd = s.cmd := rfl
@[simp] theorem State.dispatchOnce_out (p : Port) : (s.dispatchOnce p).out = p := rfl
@[simp] theorem State.dispatchOnce_capEn (p : Port) : (s.dispatchOnce p).capEn = s.capEn := rfl
@[simp] theorem State.dispatchOnce_seq (p : Port) : (s.dispatchOnce p).seq = .poll := rfl
@[simp] theorem State.dispatchOnce_dkind (p : Port) : (s.dispatchOnce p).dkind = s.dkind := rfl
@[simp] theorem State.dispatchOnce_dphase (p : Port) : (s.dispatchOnce p).dphase = s.dphase := rfl
@[simp] theorem State.dispatchOnce_dreqN (p : Port) : (s.dispatchOnce p).dreqN = s.dreqN := rfl
@[simp] theorem State.dispatchOnce_script (p : Port) : (s.dispatchOnce p).script = s.script := rfl
@[simp] theorem State.dispatchOnce_pos (p : Port) : (s.dispatchOnce p).pos = s.pos := rfl
@[simp] theorem State.dispatchOnce_trace (p : Port) : (s.dispatchOnce p).trace = s.trace ++ [.portWrite p] := rfl
@[simp] theorem State.dispatchOnce_bufDraw (p : Port) : (s.dispatchOnce p).bufDraw = s.bufDraw := rfl

/-! ### `State.dispatchBlocking`: the start of a blocking sequence -/

@[simp] theorem State.dispatchBlocking_cfg (k : DelayKind) : (s.dispatchBlocking k).cfg = s.cfg := rfl
@[simp] theorem State.dispatchBlocking_tick (k : DelayKind) : (s.dispatchBlocking k).tick = s.tick := rfl
@[simp] theorem State.dispatchBlocking_buf (k : DelayKind) : (s.dispatchBlocking k).buf = s.buf := rfl
@[simp] theorem State.dispatchBlocking_wp (k : DelayKind) : (s.dispatchBlocking k).wp = s.wp := rfl
@[simp] theorem State.dispatchBlocking_rp (k : DelayKind) : (s.dispatchBlocking k).rp = s.rp := rfl
@[simp] theorem State.dispatchBlocking_prevTs (k : DelayKind) : (s.dispatchBlocking k).prevTs = s.prevTs := rfl
@[simp] theorem State.dispatchBlocking_acc (k : DelayKind) : (s.dispatchBlocking k).acc = s.acc := rfl
@[simp] theorem State.dispatchBlocking_bitpos (k : DelayKind) : (s.dispatchBlocking k).bitpos = s.bitpos := rfl
@[simp] theorem State.dispatchBlocking_cmd (k : DelayKind) : (s.dispatchBlocking k).cmd = s.cmd := rfl
@[simp] theorem State.dispatchBlocking_out (k : DelayKind) : (s.dispatchBlocking k).out = phasePattern k 0 := rfl
@[simp] theorem State.dispatchBlocking_capEn (k : DelayKind) : (s.dispatchBlocking k).capEn = s.capEn := rfl
@[simp] theorem State.dispatchBlocking_seq (k : DelayKind) : (s.dispatchBlocking k).seq = .wait := rfl
@[simp] theorem State.dispatchBlocking_dkind (k : DelayKind) : (s.dispatchBlocking k).dkind = k := rfl
@[simp] theorem State.dispatchBlocking_dphase (k : DelayKind) : (s.dispatchBlocking k).dphase = ⟨0, by decide⟩ := rfl
@[simp] theorem State.dispatchBlocking_dreqN (k : DelayKind) : (s.dispatchBlocking k).dreqN = phaseHold k := rfl
@[simp] theorem State.dispatchBlocking_script (k : DelayKind) : (s.dispatchBlocking k).script = s.script := rfl
@[simp] theorem State.dispatchBlocking_pos (k : DelayKind) : (s.dispatchBlocking k).pos = s.pos := rfl
@[simp] theorem State.dispatchBlocking_trace (k : DelayKind) : (s.dispatchBlocking k).trace = s.trace ++ [.portWrite (phasePattern k 0)] ++ [.delayRequest (phaseHold k)] := rfl
@[simp] theorem State.dispatchBlocking_bufDraw (k : DelayKind) : (s.dispatchBlocking k).bufDraw = s.bufDraw := rfl

/-! ### `State.load`: a new script -/

@[simp] theorem State.load_cfg (cs : List Code) : (s.load cs).cfg = s.cfg := rfl
@[simp] theorem State.load_tick (cs : List Code) : (s.load cs).tick = s.tick := rfl
@[simp] theorem State.load_buf (cs : List Code) : (s.load cs).buf = s.buf := rfl
@[simp] theorem State.load_wp (cs : List Code) : (s.load cs).wp = s.wp := rfl
@[simp] theorem State.load_rp (cs : List Code) : (s.load cs).rp = s.rp := rfl
@[simp] theorem State.load_prevTs (cs : List Code) : (s.load cs).prevTs = s.prevTs := rfl
@[simp] theorem State.load_acc (cs : List Code) : (s.load cs).acc = s.acc := rfl
@[simp] theorem State.load_bitpos (cs : List Code) : (s.load cs).bitpos = s.bitpos := rfl
@[simp] theorem State.load_cmd (cs : List Code) : (s.load cs).cmd = s.cmd := rfl
@[simp] theorem State.load_out (cs : List Code) : (s.load cs).out = s.out := rfl
@[simp] theorem State.load_capEn (cs : List Code) : (s.load cs).capEn = s.capEn := rfl
@[simp] theorem State.load_seq (cs : List Code) : (s.load cs).seq = s.seq := rfl
@[simp] theorem State.load_dkind (cs : List Code) : (s.load cs).dkind = s.dkind := rfl
@[simp] theorem State.load_dphase (cs : List Code) : (s.load cs).dphase = s.dphase := rfl
@[simp] theorem State.load_dreqN (cs : List Code) : (s.load cs).dreqN = s.dreqN := rfl
@[simp] theorem State.load_script (cs : List Code) : (s.load cs).script = cs := rfl
@[simp] theorem State.load_pos (cs : List Code) : (s.load cs).pos = s.pos := rfl
@[simp] theorem State.load_trace (cs : List Code) : (s.load cs).trace = s.trace := rfl
@[simp] theorem State.load_bufDraw (cs : List Code) : (s.load cs).bufDraw = s.bufDraw := rfl

/-! ### `State.withNextCode`: a new next line -/

@[simp] theorem State.withNextCode_cfg (c : Code) : (s.withNextCode c).cfg = s.cfg := rfl
@[simp] theorem State.withNextCode_tick (c : Code) : (s.withNextCode c).tick = s.tick := rfl
@[simp] theorem State.withNextCode_buf (c : Code) : (s.withNextCode c).buf = s.buf := rfl
@[simp] theorem State.withNextCode_wp (c : Code) : (s.withNextCode c).wp = s.wp := rfl
@[simp] theorem State.withNextCode_rp (c : Code) : (s.withNextCode c).rp = s.rp := rfl
@[simp] theorem State.withNextCode_prevTs (c : Code) : (s.withNextCode c).prevTs = s.prevTs := rfl
@[simp] theorem State.withNextCode_acc (c : Code) : (s.withNextCode c).acc = s.acc := rfl
@[simp] theorem State.withNextCode_bitpos (c : Code) : (s.withNextCode c).bitpos = s.bitpos := rfl
@[simp] theorem State.withNextCode_cmd (c : Code) : (s.withNextCode c).cmd = s.cmd := rfl
@[simp] theorem State.withNextCode_out (c : Code) : (s.withNextCode c).out = s.out := rfl
@[simp] theorem State.withNextCode_capEn (c : Code) : (s.withNextCode c).capEn = s.capEn := rfl
@[simp] theorem State.withNextCode_seq (c : Code) : (s.withNextCode c).seq = s.seq := rfl
@[simp] theorem State.withNextCode_dkind (c : Code) : (s.withNextCode c).dkind = s.dkind := rfl
@[simp] theorem State.withNextCode_dphase (c : Code) : (s.withNextCode c).dphase = s.dphase := rfl
@[simp] theorem State.withNextCode_dreqN (c : Code) : (s.withNextCode c).dreqN = s.dreqN := rfl
@[simp] theorem State.withNextCode_script (c : Code) : (s.withNextCode c).script = c :: s.script.tail := rfl
@[simp] theorem State.withNextCode_pos (c : Code) : (s.withNextCode c).pos = s.pos := rfl
@[simp] theorem State.withNextCode_trace (c : Code) : (s.withNextCode c).trace = s.trace := rfl
@[simp] theorem State.withNextCode_bufDraw (c : Code) : (s.withNextCode c).bufDraw = s.bufDraw := rfl

end Sys2Proof.Machine
end

