-- ==== Sys2Proof/Laws/Memory.lean ====
section
/-! SUPPORT. The capture buffer: read after write, and that every write keeps the canonical form. -/

namespace Sys2Proof.Machine

variable {w : Nat}

theorem Memory.wfFrom_mono {lo lo' : Nat} (h : lo' ≤ lo) :
    ∀ {m : Memory w}, Memory.wfFrom lo m = true → Memory.wfFrom lo' m = true
  | [], _ => rfl
  | (i, v) :: m, hm => by
    simp only [Memory.wfFrom, Bool.and_eq_true, decide_eq_true_eq] at hm ⊢
    exact ⟨⟨by omega, hm.1.2⟩, hm.2⟩

theorem Memory.wfFrom_write {v : Stamp w} {i : Nat} (hi : i < Config.cap) :
    ∀ {m : Memory w} {lo : Nat}, lo ≤ i → Memory.wfFrom lo m = true →
      Memory.wfFrom lo (Memory.write m i v) = true
  | [], lo, hlo, _ => by simp [Memory.write, Memory.wfFrom, hlo, hi]
  | (j, u) :: m, lo, hlo, hm => by
    simp only [Memory.wfFrom, Bool.and_eq_true, decide_eq_true_eq] at hm
    unfold Memory.write
    split
    · simp only [Memory.wfFrom, Bool.and_eq_true, decide_eq_true_eq]
      exact ⟨⟨hlo, hi⟩, ⟨by omega, hm.1.2⟩, hm.2⟩
    · split
      · rename_i hij
        subst hij
        simp only [Memory.wfFrom, Bool.and_eq_true, decide_eq_true_eq]
        exact ⟨⟨hlo, hi⟩, hm.2⟩
      · simp only [Memory.wfFrom, Bool.and_eq_true, decide_eq_true_eq]
        exact ⟨hm.1, Memory.wfFrom_write hi (by omega) hm.2⟩

/-- A write at a legal index keeps the canonical form. -/
theorem Memory.wf_write {m : Memory w} {i : Nat} {v : Stamp w} (hi : i < Config.cap)
    (hm : Memory.wf m = true) : Memory.wf (Memory.write m i v) = true :=
  Memory.wfFrom_write hi (Nat.zero_le i) hm

@[simp] theorem Memory.wf_nil : Memory.wf ([] : Memory w) = true := rfl

/-- The empty buffer of RESET is canonical, and so is the one of the reset state. -/
theorem State.reset_buf_wf : Memory.wf State.reset.buf = true := rfl

@[simp] theorem Memory.entry_nil (i : Nat) : Memory.entry ([] : Memory w) i = none := rfl

/-- A read of the index just written gives the value written. -/
@[simp] theorem Memory.entry_write_same (i : Nat) (v : Stamp w) :
    ∀ m : Memory w, Memory.entry (Memory.write m i v) i = some v
  | [] => by simp [Memory.write, Memory.entry]
  | (j, u) :: m => by
    unfold Memory.write
    split
    · simp [Memory.entry]
    · split
      · simp [Memory.entry]
      · rename_i hij
        simp only [Memory.entry, hij, if_false]
        exact Memory.entry_write_same i v m

/-- A write leaves every other index alone. -/
theorem Memory.entry_write_other {i k : Nat} (v : Stamp w) (h : k ≠ i) :
    ∀ m : Memory w, Memory.entry (Memory.write m i v) k = Memory.entry m k
  | [] => by simp [Memory.write, Memory.entry, h]
  | (j, u) :: m => by
    unfold Memory.write
    split
    · simp [Memory.entry, h]
    · split
      · rename_i hij
        subst hij
        simp [Memory.entry, h]
      · simp only [Memory.entry]
        split
        · rfl
        · exact Memory.entry_write_other v h m

/-- A read of a recorded entry is that entry. -/
theorem State.readEntry_of_entry {s : State} {i : Nat} {v : Stamp s.cfg.tickWidth}
    (h : Memory.entry s.buf i = some v) : s.readEntry i = v := by
  simp [State.readEntry, h]

/-- A read depends on the buffer and the draw alone. -/
theorem State.readEntry_congr {s : State} {i : Nat} {b : Memory s.cfg.tickWidth}
    (h : Memory.entry b i = Memory.entry s.buf i) :
    State.readEntry { s with buf := b } i = s.readEntry i := by
  simp only [State.readEntry]
  rw [h]

end Sys2Proof.Machine
end

