-- ==== Sys2Proof/Laws/Ops.lean ====
section
/-! SUPPORT. What a transaction and a step can do, said once. -/

namespace Sys2Proof.Machine

/-- The effect of a transaction, where its guard holds. -/
def effectOf : Instr → State → State
  | .tick => tickEffect
  | .edge => edgeEffect
  | .delayDone => delayDoneEffect
  | .reset => resetEffect
  | .poll => pollEffect
  | .drain => drainEffect
  | .dispatch => dispatchEffect

/-- Every transaction is its effect under its guard. -/
theorem exec_eq_whenEnabled (i : Instr) (s : State) : exec i s = whenEnabled i s (effectOf i) := by
  cases i <;> rfl

/-- All that `whenEnabled` can answer with a next state. -/
theorem whenEnabled_next_iff {i : Instr} {s t : State} {f : State → State} :
    whenEnabled i s f = .next t ↔ enabled i s = true ∧ t = f s := by
  unfold whenEnabled
  split
  · rename_i h
    exact ⟨fun e => ⟨h, (Host.Outcome.next.inj e).symm⟩, fun e => by rw [e.2]⟩
  · rename_i h
    exact ⟨fun e => (nomatch e), fun e => absurd e.1 h⟩

/-- The inversion lemma of `exec`. -/
theorem exec_next_inv {i : Instr} {s t : State} (h : exec i s = .next t) :
    enabled i s = true ∧ t = effectOf i s := by
  rw [exec_eq_whenEnabled] at h
  exact whenEnabled_next_iff.mp h

/-- An enabled transaction has its effect. -/
theorem exec_of_enabled {i : Instr} {s : State} (h : enabled i s = true) :
    exec i s = .next (effectOf i s) := by
  rw [exec_eq_whenEnabled]
  exact whenEnabled_next_iff.mpr ⟨h, rfl⟩

/-- The inversion lemma of `step`: some transaction was fetched, and it was enabled. -/
theorem step_next_inv {s t : State} (h : step s = .next t) :
    ∃ i, s.fetch = .ok i ∧ enabled i (s.advance i) = true ∧ t = effectOf i (s.advance i) := by
  unfold step at h
  split at h
  · rename_i i hf
    exact ⟨i, hf, exec_next_inv h⟩
  · cases h

/-- EDGE, when the edge is recorded. -/
theorem edgeEffect_of_open {s : State} (hc : s.capEn = true) (hw : s.wp.val < Config.cap) :
    edgeEffect s =
      { s with buf := Memory.write s.buf s.wp.val s.tick, wp := ⟨s.wp.val + 1, by omega⟩ } := by
  unfold edgeEffect
  rw [dif_pos ⟨hc, hw⟩]
  rfl

/-- EDGE, when the edge is lost. -/
theorem edgeEffect_of_lost {s : State} (h : s.capEn = false ∨ s.wp.val = Config.cap) :
    edgeEffect s = s := by
  unfold edgeEffect
  rw [dif_neg]
  rintro ⟨hc, hw⟩
  rcases h with h | h
  · simp [h] at hc
  · omega

/-- All that EDGE can do. -/
theorem edgeEffect_cases (s : State) :
    edgeEffect s = s ∨ ∃ (_ : s.capEn = true) (hw : s.wp.val < Config.cap),
      edgeEffect s =
        { s with buf := Memory.write s.buf s.wp.val s.tick, wp := ⟨s.wp.val + 1, by omega⟩ } := by
  by_cases h : s.capEn = true ∧ s.wp.val < Config.cap
  · exact .inr ⟨h.1, h.2, edgeEffect_of_open h.1 h.2⟩
  · exact .inl (dif_neg h)

/-- A single port write, as one record update. -/
theorem dispatchOnce_eq (s : State) (p : Port) :
    s.dispatchOnce p = { s with out := p, seq := .poll, trace := s.trace ++ [.portWrite p] } := rfl

/-- The start of a blocking sequence, as one record update. -/
theorem dispatchBlocking_eq (s : State) (k : DelayKind) :
    s.dispatchBlocking k =
      { s with dkind := k, dphase := ⟨0, by decide⟩, out := phasePattern k 0, dreqN := phaseHold k,
               seq := .wait,
               trace := s.trace ++ [.portWrite (phasePattern k 0), .delayRequest (phaseHold k)] } := by
  simp [State.dispatchBlocking, State.portWrite, State.delayRequest, State.record]

/-- All that DISPATCH can do: one port write, or the start of a STOP or IDLE sequence. -/
theorem dispatchEffect_cases (s : State) :
    (∃ p, dispatchEffect s = s.dispatchOnce p) ∨
    (select s.cfg s.cmd = .stop ∧ dispatchEffect s = s.dispatchBlocking .stop) ∨
    (select s.cfg s.cmd = .idle ∧ dispatchEffect s = s.dispatchBlocking .idle) := by
  cases h : select s.cfg s.cmd <;> simp only [dispatchEffect, h]
  · exact .inl ⟨_, rfl⟩
  · exact .inl ⟨_, rfl⟩
  · exact .inl ⟨_, rfl⟩
  · exact .inr (.inl ⟨trivial, trivial⟩)
  · exact .inr (.inr ⟨trivial, trivial⟩)

/-- No sequence has more phases than `DPHASE` can hold. -/
theorem phaseCount_le (k : DelayKind) : phaseCount k ≤ 2 * Config.stopPairs := by
  cases k <;> decide

/-- A next phase, as one record update. -/
theorem nextPhase_of_more {s : State} (h : s.dphase.val + 1 < phaseCount s.dkind) :
    nextPhase s =
      { s with dphase := ⟨s.dphase.val + 1, Nat.lt_of_lt_of_le h (phaseCount_le _)⟩,
               out := phasePattern s.dkind (s.dphase.val + 1), dreqN := phaseHold s.dkind,
               trace := s.trace ++ [.portWrite (phasePattern s.dkind (s.dphase.val + 1)),
                                    .delayRequest (phaseHold s.dkind)] } := by
  unfold nextPhase
  rw [dif_pos ⟨h, Nat.lt_of_lt_of_le h (phaseCount_le _)⟩]
  simp [State.portWrite, State.delayRequest, State.record]

/-- After the last phase. -/
theorem nextPhase_of_last {s : State} (h : phaseCount s.dkind ≤ s.dphase.val + 1) :
    nextPhase s = { s with seq := .poll } := by
  unfold nextPhase
  exact dif_neg fun hh => by omega

theorem delayDoneEffect_of_startup {s : State} (h : s.dkind = .startup) :
    delayDoneEffect s = { s with capEn := true, seq := .poll } := by
  simp only [delayDoneEffect, h, startupDone]

theorem delayDoneEffect_of_sequence {s : State} (h : s.dkind ≠ .startup) :
    delayDoneEffect s = nextPhase s := by
  unfold delayDoneEffect
  split
  · exact absurd ‹_› h
  · rfl
  · rfl

/-- All that DELAY_DONE can do: end the startup delay, step to a next phase, or end a sequence. -/
theorem delayDoneEffect_cases (s : State) :
    (s.dkind = .startup ∧ delayDoneEffect s = { s with capEn := true, seq := .poll }) ∨
    (s.dkind ≠ .startup ∧ ∃ h : s.dphase.val + 1 < phaseCount s.dkind,
      delayDoneEffect s =
        { s with dphase := ⟨s.dphase.val + 1, Nat.lt_of_lt_of_le h (phaseCount_le _)⟩,
                 out := phasePattern s.dkind (s.dphase.val + 1), dreqN := phaseHold s.dkind,
                 trace := s.trace ++ [.portWrite (phasePattern s.dkind (s.dphase.val + 1)),
                                      .delayRequest (phaseHold s.dkind)] }) ∨
    (s.dkind ≠ .startup ∧ phaseCount s.dkind ≤ s.dphase.val + 1 ∧
      delayDoneEffect s = { s with seq := .poll }) := by
  by_cases hk : s.dkind = .startup
  · exact .inl ⟨hk, delayDoneEffect_of_startup hk⟩
  · rw [delayDoneEffect_of_sequence hk]
    by_cases h : s.dphase.val + 1 < phaseCount s.dkind
    · exact .inr (.inl ⟨hk, h, nextPhase_of_more h⟩)
    · exact .inr (.inr ⟨hk, by omega, nextPhase_of_last (by omega)⟩)

/-- No transaction writes the configuration. -/
@[simp] theorem effectOf_cfg (i : Instr) (s : State) : (effectOf i s).cfg = s.cfg := by
  cases i
  case edge => rcases edgeEffect_cases s with h | ⟨_, _, h⟩ <;> simp only [effectOf, h]
  case delayDone =>
    rcases delayDoneEffect_cases s with ⟨_, h⟩ | ⟨_, _, h⟩ | ⟨_, _, h⟩ <;> simp only [effectOf, h]
  case dispatch =>
    rcases dispatchEffect_cases s with ⟨_, h⟩ | ⟨_, h⟩ | ⟨_, h⟩ <;> simp [effectOf, h]
  all_goals rfl

/-- A step and a fetch ask nothing of what a step does around the transaction. -/
@[simp] theorem enabled_advance (i j : Instr) (s : State) : enabled i (s.advance j) = enabled i s := by
  cases i <;> rfl

end Sys2Proof.Machine
end

