-- ==== Sys2Proof/Laws/Decoder.lean ====
section
/-! SUPPORT. The symbol step, class by class, and its iteration. -/

namespace Sys2Proof.Machine

variable {w : Nat}

@[simp] theorem decodeAll_nil (d : Decoder w) : decodeAll d [] = d := rfl

@[simp] theorem decodeAll_cons (d : Decoder w) (t : Stamp w) (ts : List (Stamp w)) :
    decodeAll d (t :: ts) = decodeAll (decodeSymbol d t) ts := rfl

theorem decodeAll_append (d : Decoder w) (ts us : List (Stamp w)) :
    decodeAll d (ts ++ us) = decodeAll (decodeAll d ts) us := List.foldl_append

/-- Step e runs for every class (R75, R76). -/
@[simp] theorem decodeSymbol_prevTs (d : Decoder w) (t : Stamp w) : (decodeSymbol d t).prevTs = t := by
  unfold decodeSymbol completeSymbol
  split <;> rfl

theorem decodeSymbol_short {d : Decoder w} {t : Stamp w}
    (h : classify (duration t d.prevTs) = .short) : decodeSymbol d t = { d with prevTs := t } := by
  have hb := d.bitpos.isLt
  have hne : d.bitpos.castSucc.val ≠ Config.word := by simp; omega
  simp only [decodeSymbol, classAction, h, completeSymbol, dif_neg hne]
  rfl

theorem decodeSymbol_long {d : Decoder w} {t : Stamp w}
    (h : classify (duration t d.prevTs) = .long) :
    decodeSymbol d t = { d with prevTs := t, acc := 0, bitpos := 0 } := by
  have hne : (0 : Fin (Config.word + 1)).val ≠ Config.word := by decide
  simp only [decodeSymbol, classAction, h, completeSymbol, dif_neg hne]
  rfl

/-- A counted symbol that does not complete the word. -/
theorem decodeSymbol_counted {d : Decoder w} {t : Stamp w} {b : Bool}
    (h : (classify (duration t d.prevTs)).bit = some b) (hb : d.bitpos.val + 1 < Config.word) :
    decodeSymbol d t =
      { d with prevTs := t, acc := if b then d.acc ||| bitMask d.bitpos else d.acc,
               bitpos := ⟨d.bitpos.val + 1, hb⟩ } := by
  have hne : d.bitpos.succ.val ≠ Config.word := by simp; omega
  cases hc : classify (duration t d.prevTs) <;> rw [hc] at h <;> simp [PulseClass.bit] at h <;>
    subst h <;> simp only [decodeSymbol, classAction, hc, completeSymbol, dif_neg hne] <;> rfl

/-- The counted symbol that completes the word: the latch (R81, R82). -/
theorem decodeSymbol_completes {d : Decoder w} {t : Stamp w} {b : Bool}
    (h : (classify (duration t d.prevTs)).bit = some b) (hb : d.bitpos.val + 1 = Config.word) :
    decodeSymbol d t =
      { prevTs := t, acc := 0, bitpos := 0,
        cmd := if b then d.acc ||| bitMask d.bitpos else d.acc } := by
  have heq : d.bitpos.succ.val = Config.word := by simp [hb]
  cases hc : classify (duration t d.prevTs) <;> rw [hc] at h <;> simp [PulseClass.bit] at h <;>
    subst h <;> simp only [decodeSymbol, classAction, hc, completeSymbol, dif_pos heq] <;> rfl

/-- A gap is SHORT, LONG, or counts a bit. -/
theorem classify_cases (d : Stamp w) :
    classify d = .short ∨ classify d = .long ∨ ∃ b, (classify d).bit = some b := by
  cases h : classify d <;> simp [PulseClass.bit]

@[simp] theorem gapClasses_nil (p : Stamp w) : gapClasses p [] = [] := rfl

@[simp] theorem gapClasses_cons (p t : Stamp w) (ts : List (Stamp w)) :
    gapClasses p (t :: ts) = classify (duration t p) :: gapClasses t ts := rfl

@[simp] theorem countedBits_nil : countedBits [] = [] := rfl

/-- SHORT symbols are not counted (R53). -/
@[simp] theorem countedBits_short (cs : List PulseClass) :
    countedBits (.short :: cs) = countedBits cs := rfl

theorem countedBits_cons {c : PulseClass} {b : Bool} (h : c.bit = some b) (cs : List PulseClass) :
    countedBits (c :: cs) = b :: countedBits cs := by
  simp [countedBits, h]

/-- The HIGH action sets bit `BITPOS` and no other (R77). -/
theorem getLsbD_or_bitMask (a : CmdWord) (p : Fin Config.word) (k : Nat) :
    (a ||| bitMask p).getLsbD k = (a.getLsbD k || decide (k = p.val)) := by
  rw [bitMask, BitVec.getLsbD_or, BitVec.getLsbD_shiftLeft]
  have := p.isLt
  by_cases hk : k = p.val
  · subst hk; simp [Config.word]
  · simp [hk]
    intro _ _ h
    simp [Config.word] at h
    omega

theorem bitMask_toNat (p : Fin Config.word) : (bitMask p).toNat = 2 ^ p.val := by
  revert p; decide

/-- `PREV_TS` after a list of timestamps is the last of them. -/
theorem decodeAll_prevTs (d : Decoder w) (ts : List (Stamp w)) :
    (decodeAll d ts).prevTs = ts.getLastD d.prevTs := by
  induction ts generalizing d with
  | nil => rfl
  | cons t ts ih => rw [decodeAll_cons, ih, decodeSymbol_prevTs, List.getLastD_cons]

end Sys2Proof.Machine
end

