-- ==== Sys2Proof/Laws/PerInstr.lean ====
section
/-! SUPPORT. Per-transaction families (LAWS.json): facts about a transaction as syntax. -/

namespace Sys2Proof.Laws

/-- The mnemonic of a transaction spells that transaction (R49, R59). -/
def Spelling.Statement (i : Instr) : Prop := Instr.ofMnemonic i.mnemonic = some i

theorem Spelling.tick : Spelling.Statement .tick := rfl
theorem Spelling.edge : Spelling.Statement .edge := rfl
theorem Spelling.delayDone : Spelling.Statement .delayDone := rfl
theorem Spelling.reset : Spelling.Statement .reset := rfl
theorem Spelling.poll : Spelling.Statement .poll := rfl
theorem Spelling.drain : Spelling.Statement .drain := rfl
theorem Spelling.dispatch : Spelling.Statement .dispatch := rfl

/-- A well-formed transaction's code is one the decoder gives it back for (R49, R61). -/
def Encoding.Statement (i : Instr) : Prop := i.wf = true → decode (encode i) = some i

theorem Encoding.tick : Encoding.Statement .tick := fun _ => rfl
theorem Encoding.edge : Encoding.Statement .edge := fun _ => rfl
theorem Encoding.delayDone : Encoding.Statement .delayDone := fun _ => rfl
theorem Encoding.reset : Encoding.Statement .reset := fun _ => rfl
theorem Encoding.poll : Encoding.Statement .poll := fun _ => rfl
theorem Encoding.drain : Encoding.Statement .drain := fun _ => rfl
theorem Encoding.dispatch : Encoding.Statement .dispatch := fun _ => rfl

end Sys2Proof.Laws
end

