-- ==== Sys2Proof/Tests/Slice0.lean ====
section
/-! SUPPORT. The model's own tests. Expected values are those of spec/95_test_vectors.md (its test codes
and `W = 16`, D26), or of the table named at the test. A theorem `witness_X` shows states and operands that
meet the hypotheses of `Obligations.X` together, one per clause, at the boundary values of the clause. -/

namespace Sys2Proof.Machine

/-! ### Helpers -/

/-- The test configuration of spec/95_test_vectors.md section 0. -/
def tCfg : Config :=
  { tickWidth := 16, codeForward := 0x00FF, codeRewind := 0x2222, codePlay := 0x4444, codeStop := 0xAAAA,
    valid := by decide }

/-- As `tCfg`, with `ACC_PER_DRAIN = false` and `STARTUP_CAPTURE = true`. -/
def tCfgAlt : Config :=
  { tickWidth := 16, codeForward := 0x00FF, codeRewind := 0x2222, codePlay := 0x4444, codeStop := 0xAAAA,
    accPerDrain := false, startupCapture := true, valid := by decide }

/-- The narrowest legal tick width. -/
def tCfg5 : Config :=
  { tickWidth := 5, codeForward := 0x00FF, codeRewind := 0x2222, codePlay := 0x4444, codeStop := 0xAAAA,
    valid := by decide }

/-- Two equal codes (X8). -/
def tCfgEq : Config :=
  { tickWidth := 16, codeForward := 0x00FF, codeRewind := 0x2222, codePlay := 0x4444, codeStop := 0x4444,
    valid := by decide }

/-- A start state in the loop: capture open, an empty observation. -/
def tAt (c : Config) (q : SeqState) : State :=
  { State.resetWith c with capEn := true, seq := q, trace := [] }

/-- A start state inside a blocking sequence. -/
def tWait (k : DelayKind) (p : Fin 8) (n : Nat) : State :=
  { tAt tCfg .wait with dkind := k, dphase := p, dreqN := n }

/-- `n` entries, each `gap` after the one before it, the first at index `i` with the value `v`. -/
def tEntries {w : Nat} (gap : Nat) : Nat → Nat → Nat → Memory w
  | 0, _, _ => []
  | n + 1, i, v => (i, BitVec.ofNat w v) :: tEntries gap n (i + 1) (v + gap)

/-- A full buffer about to be drained, every gap being `gap`. -/
def tFull (c : Config) (q : SeqState) (gap : Nat) : State :=
  { tAt c q with buf := tEntries gap Config.cap 0 gap, wp := Fin.last _, cmd := 0x1234 }

/-- One observation of the next state, or nothing if there is none. -/
def see {α : Type} (f : State → α) : Host.Outcome State Fault Refusal → Option α
  | .next s => some (f s)
  | .fault _ => none
  | .refused _ => none

/-- Why there is no next state. -/
def seeRefusal : Host.Outcome State Fault Refusal → Option Refusal
  | .next _ => none
  | .fault _ => none
  | .refused r => some r

/-- A decoder state of section 2.4. -/
def tDec (prev : Nat) (acc : CmdWord) (bitpos : Fin Config.word) : Decoder 16 :=
  { prevTs := BitVec.ofNat 16 prev, acc := acc, bitpos := bitpos, cmd := 0x1234 }

/-! ### Decoding, from the codes of R49 (spec/95_test_vectors.md 2.1) -/

theorem test_decode_environment : decode 0b0000 = some .tick ∧ decode 0b0001 = some .edge ∧
    decode 0b0010 = some .delayDone ∧ decode 0b0011 = some .reset := by decide

theorem test_decode_sequencer : decode 0b0100 = some .poll ∧ decode 0b0101 = some .drain ∧
    decode 0b0110 = some .dispatch := by decide

theorem test_decode_reserved :
    [0x7, 0x8, 0x9, 0xA, 0xB, 0xC, 0xD, 0xE, 0xF].all (fun c => decode c == none) = true := by decide

/-- P1's encoding `324622` (section 3). -/
theorem test_encode_p1 :
    encodeScript [.reset, .delayDone, .poll, .dispatch, .delayDone, .delayDone]
      = [0x3, 0x2, 0x4, 0x6, 0x2, 0x2] := by decide

theorem test_table_word : decodeTableWord 8 0x05 = some .drain ∧ decodeTableWord 8 0x15 = none := by decide

theorem test_fetch_word_runs_from_reset :
    (List.range 7).all (fun k => (see (fun _ => ()) (step (State.reset.withFetchWord 8 k))) == some ())
      = true := by decide

/-! ### Well-formedness: one ill-formed term for each check, refused (R8, R50) -/

theorem test_wf_width : (match Config.ofRaw { tCfg.toRawConfig with tickWidth := 4 } with
    | .error e => e == .tickWidthTooSmall | .ok _ => false) = true := by decide

theorem test_wf_zero_codes :
    ([{ tCfg.toRawConfig with codeForward := 0 }, { tCfg.toRawConfig with codeRewind := 0 },
      { tCfg.toRawConfig with codePlay := 0 }, { tCfg.toRawConfig with codeStop := 0 }].all fun r =>
        match Config.ofRaw r with
        | .error e => e == .zeroCode
        | .ok _ => false) = true := by decide

theorem test_wf_accepts : (match Config.ofRaw tCfg5.toRawConfig with
    | .error _ => false | .ok c => c == tCfg5) = true := by decide

theorem test_wf_script : scriptWf [0x0, 0x7] = false ∧ scriptWf [0x0, 0x6] = true := by decide

/-- The script `07`: refused at line 2. -/
theorem test_script_reserved_line : (match decodeScript [0x0, 0x7] with
    | .error e => e == (2, 0x7) | .ok _ => false) = true := by decide

/-! ### Script refusals and the spelling of lines (R59, R60) -/

theorem test_refused_not_enabled :
    seeRefusal (runTxns [.poll] (State.resetWith tCfg)) = some (.notEnabled 0 .poll) ∧
    seeRefusal (step (State.load (State.resetWith tCfg) [0x4])) = some (.notEnabled 1 .poll) := by decide

theorem test_lines : parseLine ['T', 'I', 'C', 'K', '*', '1', '2', ' ', ';', 'x'] = some (some (.ticks 12)) ∧
    parseLine ['P', 'U', 'L', 'S', 'E', ' ', '4', '0'] = some (some (.pulse 40)) ∧
    parseLine ['D', 'E', 'L', 'A', 'Y', '_', 'D', 'O', 'N', 'E'] = some (some (.txn .delayDone)) ∧
    parseLine [';', ' ', 'P', 'O', 'L', 'L'] = some none ∧ parseLine ['N', 'O', 'P'] = none := by decide

/-- P1 by pseudo-instructions: `BOOT` and `ITER` expand to `324622`. -/
theorem test_assemble_boot_iter : assemble [.boot, .iter] (State.resetWith tCfg) =
    some [.reset, .delayDone, .poll, .dispatch, .delayDone, .delayDone] := by decide

/-! ### TICK and EDGE (section 2.2) -/

/-- T2, T3. -/
theorem test_tick_wraps :
    see (fun s => s.tick.toNat) (exec .tick { tAt tCfg .poll with tick := 0xFFFF }) = some 0 ∧
    see (fun s => s.tick.toNat) (exec .tick { tAt tCfg5 .poll with tick := 31 }) = some 0 := by decide

/-- E1, and E3 at the last index. -/
theorem test_edge_records :
    see (fun s => (s.buf.map fun e => (e.1, e.2.toNat), s.wp.val))
      (exec .edge { tAt tCfg .poll with wp := 7, tick := 1234 }) = some ([(7, 1234)], 8) ∧
    see (fun s => (s.buf.map fun e => (e.1, e.2.toNat), s.wp.val, s.full))
      (exec .edge { tAt tCfg .poll with wp := 99, tick := 500 }) = some ([(99, 500)], 100, true) := by
  decide

/-- E4, E5: lost. -/
theorem test_edge_lost :
    see (fun s => s == { tAt tCfg .poll with wp := 100, tick := 9 })
      (exec .edge { tAt tCfg .poll with wp := 100, tick := 9 }) = some true ∧
    see (fun s => s == { tAt tCfg .poll with wp := 3, tick := 9, capEn := false })
      (exec .edge { tAt tCfg .poll with wp := 3, tick := 9, capEn := false }) = some true := by decide

/-! ### Classifier, duration and symbol step (sections 1.1, 2.3, 2.4) -/

theorem test_class_boundaries :
    [0, 5, 6, 15, 16, 30, 31, 65535].map (fun n => classify (BitVec.ofNat 16 n)) =
      [.short, .short, .low, .low, .high, .high, .long, .long] := by decide

theorem test_durations :
    [(120, 100), (10, 65533), (5, 65535), (65535, 0), (100, 100)].map
      (fun p => (duration (BitVec.ofNat 16 p.1) (BitVec.ofNat 16 p.2)).toNat) = [20, 13, 6, 65535, 0] := by
  decide

/-- S3, S4, S6, S8, S10, S11, S15. -/
theorem test_symbol_steps :
    decodeSymbol (tDec 100 0x0005 3) 116 = tDec 116 0x000D 4 ∧
    decodeSymbol (tDec 100 0x0005 3) 103 = tDec 103 0x0005 3 ∧
    decodeSymbol (tDec 100 0x0005 3) 106 = tDec 106 0x0005 4 ∧
    decodeSymbol (tDec 100 0x0005 3) 131 = tDec 131 0x0000 0 ∧
    decodeSymbol (tDec 100 0x7FFF 15) 120 = { tDec 120 0 0 with cmd := 0xFFFF } ∧
    decodeSymbol (tDec 100 0x7FFF 15) 110 = { tDec 110 0 0 with cmd := 0x7FFF } ∧
    decodeSymbol (tDec 65533 0 0) 10 = tDec 10 0 1 := by decide

/-- The timestamps of Scenario 1 (section 1.6). -/
def tScenario1 : List (Stamp 16) :=
  [10, 30, 40, 60, 70, 90, 100, 120, 130, 150, 160, 180, 190, 210, 220, 240]

set_option maxRecDepth 10000 in
/-- Scenario 1, and Scenario 2 with the symbols counted from 0 (section 1.7). -/
theorem test_scenarios_1_2 :
    decodeAll (tDec 0 0 0) tScenario1 = { tDec 240 0 0 with cmd := 0xAAAA } ∧
    decodeAll (tDec 0 0 0) (tScenario1.take 10 ++ [190, 210, 220, 240, 250, 270]) = tDec 270 0x0015 5 := by
  decide

set_option maxRecDepth 100000 in
/-- DR2: 100 LOWs, from a cleared assembly. -/
theorem test_drain_clears :
    see (fun s => ((s.cmd, s.acc, s.bitpos.val, s.prevTs.toNat), s.wp.val, s.rp.val, s.seq))
      (exec .drain (tFull tCfg .drain 10)) = some ((0, 0, 4, 1000), 0, 0, .dispatch) := by decide

set_option maxRecDepth 100000 in
/-- DR3: `ACC_PER_DRAIN = false`. -/
theorem test_drain_carries :
    see (fun s => (s.cmd, s.acc, s.bitpos.val, s.prevTs.toNat))
      (exec .drain { tFull tCfgAlt .drain 10 with acc := 0x7FFF, bitpos := 15 }) = some (0, 0, 3, 1000) := by
  decide

/-! ### DISPATCH (section 2.5) -/

/-- X1 to X8, by (configuration, command). -/
theorem test_dispatch :
    [(tCfg, 0x00FF), (tCfg, 0x2222), (tCfg, 0x4444), (tCfg, 0xAAAA), (tCfg, 0x0000), (tCfg, 0x1234),
      (tCfg, 0x00FE), (tCfgEq, 0x4444)].map
        (fun p => see (fun s => (s.trace, s.out, s.seq)) (exec .dispatch { tAt p.1 .dispatch with cmd := p.2 }))
      = [some ([.portWrite 0x8], 0x8, .poll), some ([.portWrite 0x7], 0x7, .poll),
         some ([.portWrite 0xD], 0xD, .poll), some ([.portWrite 0xE, .delayRequest 50], 0xE, .wait),
         some ([.portWrite 0x6, .delayRequest 400], 0x6, .wait),
         some ([.portWrite 0x6, .delayRequest 400], 0x6, .wait),
         some ([.portWrite 0x6, .delayRequest 400], 0x6, .wait), some ([.portWrite 0xD], 0xD, .poll)] := by
  decide

/-- Scenario 4 (section 1.9): `622`. -/
theorem test_idle_blink :
    see (fun s => (s.trace, s.out, s.seq, s.dphase.val, s.dreqN))
      (runTxns [.dispatch, .delayDone, .delayDone] { tAt tCfg .dispatch with cmd := 0x1234 }) =
    some ([.portWrite 0x6, .delayRequest 400, .portWrite 0x2, .delayRequest 400], 0x2, .poll, 1, 400) := by
  decide

/-! ### POLL, DELAY_DONE and RESET (sections 2.6, 2.7) -/

/-- Q1, Q2. -/
theorem test_poll :
    see (fun s => s.seq) (exec .poll { tAt tCfg .poll with wp := 100 }) = some .drain ∧
    see (fun s => s.seq) (exec .poll { tAt tCfg .poll with wp := 99 }) = some .dispatch := by decide

/-- Q5, and Q10. -/
theorem test_delay_done_startup :
    see (fun s => (s.capEn, s.seq, s.trace)) (exec .delayDone { tWait .startup 0 1000 with capEn := false })
      = some (true, .poll, []) ∧
    seeRefusal (exec .delayDone (tAt tCfg .poll)) = some (.notEnabled 0 .delayDone) := by decide

/-- Q6 to Q9. -/
theorem test_delay_done_phases :
    [tWait .idle 0 400, tWait .idle 1 400, tWait .stop 6 50, tWait .stop 7 50].map
        (fun s => see (fun t => (t.trace, t.dphase.val, t.seq)) (exec .delayDone s)) =
      [some ([.portWrite 0x2, .delayRequest 400], 1, .wait), some ([], 1, .poll),
       some ([.portWrite 0x2, .delayRequest 50], 7, .wait), some ([], 7, .poll)] := by decide

/-- RS2: RESET in a STOP sequence. -/
theorem test_reset_registers :
    see (fun s => ((s.tick.toNat, s.cmd, s.acc, s.bitpos.val), s.out, s.seq, s.dkind))
      (exec .reset { tWait .stop 3 50 with tick := 1650, cmd := 0xAAAA, acc := 0x2AAA, bitpos := 14, out := 2 })
        = some ((0, 0, 0, 0), 0, .wait, .startup) := by decide

/-- RS1 and RS3: `CAP_EN`, the request and the observation. -/
theorem test_reset_capture :
    [tFull tCfg .poll 10, tAt tCfgAlt .poll].map
        (fun s => see (fun t => (t.wp.val, t.dreqN, t.capEn, t.trace)) (exec .reset s)) =
      [some (0, 1000, false, [.delayRequest 1000]), some (0, 1000, true, [.delayRequest 1000])] := by decide

/-! ### Witnesses of the statements' hypotheses -/

theorem witness_ScriptAndCodesRoundTrip :
    ∃ (cs : List Code) (is : List Instr), decodeScript cs = .ok is := ⟨[0x0, 0x1, 0x6], _, rfl⟩

theorem witness_ReservedCodeRefusedAtItsPosition :
    (∃ c : Code, 7 ≤ c.toNat ∧ c = 0x7) ∧ (∃ c : Code, 7 ≤ c.toNat ∧ c = 0xF) ∧
    (∃ (s : State) (c : Code) (cs : List Code), s.script = c :: cs ∧ 7 ≤ c.toNat) :=
  ⟨⟨_, by decide, rfl⟩, ⟨_, by decide, rfl⟩, ⟨State.load State.reset [0x7], 0x7, [], rfl, by decide⟩⟩

theorem witness_StepRunsDecodedTransaction :
    ∃ (s : State) (c : Code) (cs : List Code) (i : Instr), s.script = c :: cs ∧ decode c = some i :=
  ⟨State.load State.reset [0x2, 0x4], 0x2, [0x4], .delayDone, rfl, rfl⟩

theorem witness_FreeStepTakesAnEnabledTransaction : ∃ s : State, s.script = [] := ⟨State.reset, rfl⟩

theorem witness_TransactionCompletesExactlyWhenEnabled :
    (∃ (i : Instr) (s : State), ∃ t, exec i s = .next t) ∧
    (∃ (i : Instr) (s : State), ¬ ∃ t, exec i s = .next t) :=
  ⟨⟨.delayDone, tWait .stop 7 50, _, rfl⟩, ⟨.poll, State.reset, fun ⟨_, h⟩ => (nomatch h)⟩⟩

theorem witness_OnlyReservedOrDisabledIsRefused :
    (∃ s : State, step s = .refused (.reservedCode 1 0x7)) ∧
    (∃ s : State, step s = .refused (.notEnabled 1 .poll)) :=
  ⟨⟨State.load State.reset [0x7], rfl⟩, ⟨State.load State.reset [0x4], rfl⟩⟩

theorem witness_EdgeRecordsTickOrIsLost :
    (∃ s : State, s.capEn = true ∧ s.wp.val < 100 ∧ s.wp.val = 0) ∧
    (∃ s : State, s.capEn = true ∧ s.wp.val < 100 ∧ s.wp.val = 99) ∧
    (∃ s : State, s.capEn = false) ∧ (∃ s : State, s.capEn = true ∧ s.wp.val = 100) :=
  ⟨⟨tAt tCfg .poll, by decide⟩, ⟨{ tAt tCfg .poll with wp := 99 }, by decide⟩,
   ⟨State.resetWith tCfg, by decide⟩, ⟨{ tAt tCfg .poll with wp := 100 }, by decide⟩⟩

theorem witness_FullBufferKeepsItsEntriesUntilDrain :
    ∃ (is : List Instr) (s t : State), s.wp.val = 100 ∧ Instr.drain ∉ is ∧ Instr.reset ∉ is ∧
      runTxns is s = .next t :=
  ⟨[.edge, .delayDone, .tick, .edge, .poll], { tWait .stop 7 50 with wp := 100 }, _, by decide, by decide,
    by decide, rfl⟩

theorem witness_RecordedGapCountsTicks : ∃ s : State, s.capEn = true ∧ s.wp.val + 1 < 100 ∧ s.wp.val = 98 :=
  ⟨{ tAt tCfg .poll with wp := 98 }, by decide⟩

theorem witness_TickEdgeOrderDecidesTheStamp : ∃ s : State, s.capEn = true ∧ s.wp.val < 100 ∧ s.wp.val = 99 :=
  ⟨{ tAt tCfg .poll with wp := 99 }, by decide⟩

/-- The boundary values of each class of R72, and 0 and the largest value of the least width. -/
theorem witness_ClassBoundariesAreExact :
    (∃ d : Stamp 5, classify d = .short ∧ d.toNat = 0) ∧ (∃ d : Stamp 5, classify d = .short ∧ d.toNat = 5) ∧
    (∃ d : Stamp 5, classify d = .low ∧ d.toNat = 6) ∧ (∃ d : Stamp 5, classify d = .low ∧ d.toNat = 15) ∧
    (∃ d : Stamp 5, classify d = .high ∧ d.toNat = 16) ∧ (∃ d : Stamp 5, classify d = .high ∧ d.toNat = 30) ∧
    (∃ d : Stamp 5, classify d = .long ∧ d.toNat = 31) :=
  ⟨⟨0, by decide⟩, ⟨5, by decide⟩, ⟨6, by decide⟩, ⟨15, by decide⟩, ⟨16, by decide⟩, ⟨30, by decide⟩,
   ⟨31, by decide⟩⟩

/-- The table of R73 at the least width. -/
theorem witness_ClassSizesForEveryWidth :
    5 ≤ 5 ∧ (List.range (2 ^ 5)).countP (fun n => classify (BitVec.ofNat 5 n) = .long) = 1 := by decide

/-- Both branches of the difference, at equal timestamps and across a wrap. -/
theorem witness_DurationIsModularDifference :
    (∃ ts prev : Stamp 16, prev.toNat ≤ ts.toNat ∧ ts = prev) ∧
    (∃ ts prev : Stamp 16, ¬ prev.toNat ≤ ts.toNat ∧ (duration ts prev).toNat = 6) :=
  ⟨⟨100, 100, by decide⟩, ⟨5, 65535, by decide⟩⟩

/-- The gap of `SymbolStepFollowsTheTable`, computed. -/
def tGap (d : Decoder 16) (ts : Stamp 16) : Nat := (ts.toNat + (2 ^ 16 - d.prevTs.toNat)) % 2 ^ 16

/-- Each clause at its boundary gaps: 5; 31; 6, 15, 16 and 30, with `BITPOS` 14 and 15. -/
theorem witness_SymbolStepFollowsTheTable :
    (∃ (d : Decoder 16) (ts : Stamp 16), tGap d ts ≤ 5 ∧ tGap d ts = 5) ∧
    (∃ (d : Decoder 16) (ts : Stamp 16), 30 < tGap d ts ∧ tGap d ts = 31) ∧
    (∃ (d : Decoder 16) (ts : Stamp 16), 5 < tGap d ts ∧ tGap d ts ≤ 30 ∧ tGap d ts = 6 ∧ d.bitpos.val < 15) ∧
    (∃ (d : Decoder 16) (ts : Stamp 16), 5 < tGap d ts ∧ tGap d ts ≤ 30 ∧ tGap d ts = 15 ∧ d.bitpos.val = 15) ∧
    (∃ (d : Decoder 16) (ts : Stamp 16), 5 < tGap d ts ∧ tGap d ts ≤ 30 ∧ tGap d ts = 16 ∧ d.bitpos.val < 15) ∧
    (∃ (d : Decoder 16) (ts : Stamp 16), 5 < tGap d ts ∧ tGap d ts ≤ 30 ∧ tGap d ts = 30 ∧ d.bitpos.val = 15) :=
  ⟨⟨tDec 100 5 3, 105, by decide⟩, ⟨tDec 100 5 3, 131, by decide⟩, ⟨tDec 100 5 14, 106, by decide⟩,
   ⟨tDec 100 5 15, 115, by decide⟩, ⟨tDec 100 5 14, 116, by decide⟩, ⟨tDec 65530 5 15, 24, by decide⟩⟩

theorem witness_SymbolStepKeepsTheAssemblyBound :
    (∃ d : Decoder 16, d.acc.toNat < 2 ^ d.bitpos.val ∧ d.bitpos.val = 0) ∧
    (∃ d : Decoder 16, d.acc.toNat < 2 ^ d.bitpos.val ∧ d.bitpos.val = 15) :=
  ⟨⟨tDec 100 0 0, by decide⟩, ⟨tDec 100 0x7FFF 15, by decide⟩⟩

set_option maxRecDepth 10000 in
/-- Scenario 1 (section 1.6) with a glitch after its first edge. -/
theorem witness_SixteenSymbolsAssembleLsbFirst :
    ∃ (d : Decoder 16) (ts : List (Stamp 16)), d.bitpos.val = 0 ∧ d.acc = 0 ∧
      PulseClass.long ∉ gapClasses d.prevTs ts ∧ (countedBits (gapClasses d.prevTs ts)).length = 16 :=
  ⟨tDec 0 0 0, 10 :: 13 :: tScenario1.tail, by decide⟩

set_option maxRecDepth 10000 in
/-- Scenario 2 (section 1.7) up to its LONG, at the boundary of 15 counted symbols; and a cut frame. -/
theorem witness_PartialFrameIsNeverPublished :
    (∃ (d : Decoder 16) (ts : List (Stamp 16)) (t : Stamp 16), d.bitpos.val = 0 ∧
      PulseClass.long ∉ gapClasses d.prevTs ts ∧ (countedBits (gapClasses d.prevTs ts)).length < 16 ∧
      (countedBits (gapClasses d.prevTs ts)).length = 15 ∧
      classify (duration t (decodeAll d ts).prevTs) = .long) ∧
    (∃ s : State, s.cfg.accPerDrain = true ∧ s.bitpos.val = 14) :=
  ⟨⟨tDec 0 0 0, tScenario1.take 15, 251, by decide⟩,
   ⟨{ tAt tCfg .drain with acc := 0x2AAA, bitpos := 14 }, by decide⟩⟩

theorem witness_CommandChangesOnlyOnACompletedWord :
    ∃ (d : Decoder 16) (ts : List (Stamp 16)), wordsCompleted d ts = 0 ∧ ts.length = 15 :=
  ⟨tDec 0 0 0, tScenario1.take 15, by decide⟩

theorem witness_DrainDecodesTheBufferInOrder :
    (∃ s : State, s.seq = .drain ∧ s.cfg.accPerDrain = true) ∧
    (∃ s : State, s.seq = .drain ∧ s.cfg.accPerDrain = false) :=
  ⟨⟨tFull tCfg .drain 10, by decide⟩, ⟨tFull tCfgAlt .drain 10, by decide⟩⟩

set_option maxRecDepth 100000 in
/-- DR1's gaps of 100. -/
theorem witness_AllLongDrainLeavesTheCommand :
    ∃ s : State, s.seq = .drain ∧ s.rp = 0 ∧
      ∀ c ∈ gapClasses s.prevTs ((List.range 100).map s.readEntry), c = .long :=
  ⟨tFull tCfg .drain 100, by decide⟩

theorem witness_SelectIsAPriorityChain :
    (∃ (c : Config) (v : CmdWord), v = c.codeForward) ∧
    (∃ (c : Config) (v : CmdWord), v ≠ c.codeForward ∧ v = c.codeRewind) ∧
    (∃ (c : Config) (v : CmdWord), v ≠ c.codeForward ∧ v ≠ c.codeRewind ∧ v = c.codePlay ∧ v = c.codeStop) ∧
    (∃ (c : Config) (v : CmdWord),
      v ≠ c.codeForward ∧ v ≠ c.codeRewind ∧ v ≠ c.codePlay ∧ v = c.codeStop) ∧
    (∃ (c : Config) (v : CmdWord),
      v ≠ c.codeForward ∧ v ≠ c.codeRewind ∧ v ≠ c.codePlay ∧ v ≠ c.codeStop ∧ v ≠ 0) :=
  ⟨⟨tCfg, 0x00FF, by decide⟩, ⟨tCfg, 0x2222, by decide⟩, ⟨tCfgEq, 0x4444, by decide⟩,
   ⟨tCfg, 0xAAAA, by decide⟩, ⟨tCfg, 0x00FE, by decide⟩⟩

theorem witness_KeyCommandsWriteTheirPattern :
    (∃ s : State, s.seq = .dispatch ∧ select s.cfg s.cmd = .forward) ∧
    (∃ s : State, s.seq = .dispatch ∧ select s.cfg s.cmd = .rewind) ∧
    (∃ s : State, s.seq = .dispatch ∧ select s.cfg s.cmd = .play) :=
  ⟨⟨{ tAt tCfg .dispatch with cmd := 0x00FF }, by decide⟩, ⟨{ tAt tCfg .dispatch with cmd := 0x2222 }, by decide⟩,
   ⟨{ tAt tCfg .dispatch with cmd := 0x4444 }, by decide⟩⟩

theorem witness_KeyCommandsDriveExactlyTheNamedLines :
    (∃ s t : State, exec .dispatch s = .next t ∧ select s.cfg s.cmd = .forward) ∧
    (∃ s t : State, exec .dispatch s = .next t ∧ select s.cfg s.cmd = .rewind) ∧
    (∃ s t : State, exec .dispatch s = .next t ∧ select s.cfg s.cmd = .play) :=
  ⟨⟨{ tAt tCfg .dispatch with cmd := 0x00FF }, _, rfl, by decide⟩,
   ⟨{ tAt tCfg .dispatch with cmd := 0x2222, out := 0xF }, _, rfl, by decide⟩,
   ⟨{ tAt tCfg .dispatch with cmd := 0x4444 }, _, rfl, by decide⟩⟩

theorem witness_UnknownCommandStartsTheIdleBlink :
    ∃ (s : State) (p : Fin (2 * Config.stopPairs)), p.val = 0 ∧ s.seq = .dispatch ∧
      select s.cfg s.cmd = .idle := ⟨tAt tCfg .dispatch, ⟨0, by decide⟩, by decide⟩

theorem witness_StopCommandStartsTheStopSequence :
    ∃ (s : State) (p : Fin (2 * Config.stopPairs)), p.val = 0 ∧ s.seq = .dispatch ∧
      select s.cfg s.cmd = .stop := ⟨{ tAt tCfg .dispatch with cmd := 0xAAAA }, ⟨0, by decide⟩, by decide⟩

/-- Cut before its first delay, and run to its end with a TICK and an EDGE between. -/
theorem witness_StopSequenceRunsToItsEndUnderInterleaving :
    (∃ s t : State, s.seq = .dispatch ∧ select s.cfg s.cmd = .stop ∧ runTxns [.dispatch] s = .next t) ∧
    (∃ (s t : State) (is : List Instr), s.seq = .dispatch ∧ select s.cfg s.cmd = .stop ∧
      (∀ i ∈ is, i = .tick ∨ i = .edge ∨ i = .delayDone) ∧ runTxns (.dispatch :: is) s = .next t ∧
      is.count .delayDone = 8) :=
  ⟨⟨{ tAt tCfg .dispatch with cmd := 0xAAAA }, _, by decide, by decide, rfl⟩,
   ⟨{ tAt tCfg .dispatch with cmd := 0xAAAA }, _,
    [.delayDone, .tick, .edge] ++ List.replicate 7 .delayDone, by decide, by decide, by decide, rfl, by decide⟩⟩

theorem witness_IdleBlinkRunsToItsEndUnderInterleaving :
    (∃ s t : State, s.seq = .dispatch ∧ select s.cfg s.cmd = .idle ∧ runTxns [.dispatch] s = .next t) ∧
    (∃ (s t : State) (is : List Instr), s.seq = .dispatch ∧ select s.cfg s.cmd = .idle ∧
      (∀ i ∈ is, i = .tick ∨ i = .edge ∨ i = .delayDone) ∧ runTxns (.dispatch :: is) s = .next t ∧
      is.count .delayDone = 2) :=
  ⟨⟨{ tAt tCfg .dispatch with cmd := 0x1234 }, _, by decide, by decide, rfl⟩,
   ⟨{ tAt tCfg .dispatch with cmd := 0x1234 }, _, [.edge, .delayDone, .tick, .delayDone], by decide, by decide,
    by decide, rfl, by decide⟩⟩

/-- P4 (section 3): REWIND. -/
theorem witness_RepeatedDispatchIsIdempotent :
    ∃ s t : State, exec .dispatch s = .next t ∧ t.seq = .poll ∧ s.wp.val < 100 ∧ s.wp.val = 99 :=
  ⟨{ tAt tCfg .dispatch with cmd := 0x2222, wp := 99 }, _, rfl, by decide⟩

theorem witness_PollTestsFull :
    (∃ s : State, s.seq = .poll ∧ s.wp.val = 100) ∧ (∃ s : State, s.seq = .poll ∧ s.wp.val = 99) :=
  ⟨⟨{ tAt tCfg .poll with wp := 100 }, by decide⟩, ⟨{ tAt tCfg .poll with wp := 99 }, by decide⟩⟩

theorem witness_StartupEndOpensCapture : ∃ s : State, s.seq = .wait ∧ s.dkind = .startup :=
  ⟨State.reset, rfl, rfl⟩

/-- Phases 6 and 7 of STOP, 0 and 1 of IDLE. -/
theorem witness_DelayDoneStepsThePhases :
    (∃ (s : State) (q : Fin (2 * Config.stopPairs)), s.seq = .wait ∧ s.dkind = .stop ∧
      q.val = s.dphase.val + 1 ∧ q.val < 8 ∧ q.val = 7) ∧
    (∃ s : State, s.seq = .wait ∧ s.dkind = .stop ∧ 8 ≤ s.dphase.val + 1) ∧
    (∃ (s : State) (q : Fin (2 * Config.stopPairs)), s.seq = .wait ∧ s.dkind = .idle ∧
      q.val = s.dphase.val + 1 ∧ q.val < 2) ∧
    (∃ s : State, s.seq = .wait ∧ s.dkind = .idle ∧ 2 ≤ s.dphase.val + 1 ∧ s.dphase.val = 1) :=
  ⟨⟨tWait .stop 6 50, ⟨7, by decide⟩, by decide⟩, ⟨tWait .stop 7 50, by decide⟩, ⟨tWait .idle 0 400, ⟨1, by decide⟩, by decide⟩,
   ⟨tWait .idle 1 400, by decide⟩⟩

/-- Every transaction has a next state somewhere, which the statements about one need. -/
theorem witness_SequencerFollowsTheTransitionTable :
    ∀ i : Instr, ∃ s t : State, exec i s = .next t
  | .tick => ⟨tAt tCfg .poll, _, rfl⟩
  | .edge => ⟨tAt tCfg .poll, _, rfl⟩
  | .delayDone => ⟨tWait .stop 7 50, _, rfl⟩
  | .reset => ⟨tAt tCfg .poll, _, rfl⟩
  | .poll => ⟨tAt tCfg .poll, _, rfl⟩
  | .drain => ⟨tAt tCfg .drain, _, rfl⟩
  | .dispatch => ⟨tAt tCfg .dispatch, _, rfl⟩

theorem witness_FullPollDrainsBeforeDispatch :
    ∃ (s : State) (is : List Instr), s.seq = .poll ∧ s.wp.val = 100 ∧ (∀ i ∈ is, i = .tick ∨ i = .edge) ∧
      is.length = 2 := ⟨{ tAt tCfg .poll with wp := 100 }, [.edge, .tick], by decide⟩

theorem witness_IterationReturnsToPollWithItsLength :
    (∃ s : State, s.seq = .poll ∧ s.wp.val = 100) ∧ (∃ s : State, s.seq = .poll ∧ s.wp.val = 0) :=
  ⟨⟨{ tAt tCfg .poll with wp := 100 }, by decide⟩, ⟨tAt tCfg .poll, by decide⟩⟩

theorem witness_EachElementHasOnlyItsWriters :
    ∃ s t : State, exec .edge s = .next t ∧ t.wp ≠ s.wp :=
  ⟨tAt tCfg .poll, _, rfl, by decide⟩

theorem witness_ObservationDeterminesTheBoundary :
    (∃ (i : Instr) (s t : State), exec i s = .next t ∧ i ≠ .reset) ∧
    (∃ s t : State, exec .reset s = .next t) :=
  ⟨⟨.dispatch, tAt tCfg .dispatch, _, rfl, by decide⟩, ⟨tAt tCfg .poll, _, rfl⟩⟩

theorem witness_OnlyLegalConfigurationsAreAccepted :
    (∃ r : RawConfig, r.tickWidth < 5 ∧ ∃ e, Config.ofRaw r = .error e) ∧
    (∃ r : RawConfig, r.tickWidth = 5 ∧ ∃ c, Config.ofRaw r = .ok c) :=
  ⟨⟨{ tCfg.toRawConfig with tickWidth := 4 }, by decide, _, rfl⟩, ⟨tCfg5.toRawConfig, rfl, _, rfl⟩⟩

theorem witness_ResetGivesEveryElementItsValue : ∃ p : Fin (2 * Config.stopPairs), p.val = 0 :=
  ⟨⟨0, by decide⟩, rfl⟩

theorem witness_EveryStepKeepsTheInvariant : ∃ s t : State, Inv s ∧ step s = .next t :=
  ⟨State.load (State.resetWith tCfg) [0x2], _,
   ⟨rfl, fun _ h => absurd h (Nat.not_lt_zero _), rfl, by decide, (fun h => nomatch h), fun _ => ⟨rfl, rfl⟩,
    .inl rfl, fun _ => ⟨rfl, rfl, rfl⟩, (fun h => nomatch h)⟩, rfl⟩

/-- Two states right after reset that differ in a stale entry, with a step that runs and with one that is
refused. -/
theorem witness_StaleEntriesAreUnobservable :
    (∃ s t s' : State, Inv s ∧ SameButStale s t ∧ s ≠ t ∧ step s = .next s') ∧
    (∃ s t : State, Inv s ∧ SameButStale s t ∧ s ≠ t ∧ ∃ r, step s = .refused r) := by
  have inv : ∀ cs, Inv (State.load (State.resetWith tCfg) cs) := fun _ =>
    ⟨rfl, fun _ h => absurd h (Nat.not_lt_zero _), rfl, Nat.one_pos, (fun h => nomatch h), fun _ => ⟨rfl, rfl⟩,
     .inl rfl, fun _ => ⟨rfl, rfl, rfl⟩, (fun h => nomatch h)⟩
  refine ⟨⟨_, { State.load (State.resetWith tCfg) [0x2] with buf := [(7, 1)] }, _, inv [0x2],
    ⟨[(7, 1)], 0, rfl, fun _ h => absurd h (Nat.not_lt_zero _)⟩, by decide, rfl⟩,
    ⟨_, { State.load (State.resetWith tCfg) [0x4] with buf := [(7, 1)] }, inv [0x4],
    ⟨[(7, 1)], 0, rfl, fun _ h => absurd h (Nat.not_lt_zero _)⟩, by decide, _, rfl⟩⟩

/-- The transaction a run without TICK, EDGE and RESET takes. -/
def tForeground (s : State) : Instr :=
  match s.seq with
  | .wait => .delayDone
  | .poll => .poll
  | .drain => .drain
  | .dispatch => .dispatch

/-- That run. -/
def tRun : Nat → State
  | 0 => State.reset
  | n + 1 => effectOf (tForeground (tRun n)) (tRun n)

theorem witness_FairRunReturnsToPoll :
    ∃ (σ : Nat → State) (τ : Nat → Instr), IsRun σ τ ∧ Fair σ τ ∧ ∀ m, 0 ≤ m → τ m ≠ .reset := by
  refine ⟨tRun, fun n => tForeground (tRun n), fun n => exec_of_enabled ?_, ⟨fun n h => ?_, fun n h => ?_⟩,
    fun m _ => ?_⟩
  · cases h : (tRun n).seq <;> simp [tForeground, enabled, h]
  · refine ⟨n, le_refl _, .inl ?_⟩
    cases hs : (tRun n).seq <;> simp [tForeground, hs, Instr.agent] at h ⊢
  · exact ⟨n, le_refl _, .inl (by simp [tForeground, h])⟩
  · cases h : (tRun m).seq <;> simp [tForeground, h]

end Sys2Proof.Machine
end

/-! Proofs of the family 30_encoding: sixteen counted symbols assemble a command word (R53). -/

section
namespace Sys2Proof.Machine

variable {w : Nat} {d : Decoder w} {t : Stamp w} {ts : List (Stamp w)} {bs : List Bool} {b : Bool}

/-- The word `a` holds the bits `bs`, the first of them in bit 0, and 0 above them (R53, R78). -/
def HoldsBits (a : CmdWord) (bs : List Bool) : Prop := ∀ k, a.getLsbD k = bs.getD k false

/-- The assembly of `d` is exactly the counted bits `bs`: they are in `ACC`, and `BITPOS` is their
number (R20, R21, R53). -/
structure Assembles (d : Decoder w) (bs : List Bool) : Prop where
  bitpos_eq : d.bitpos.val = bs.length
  acc_holds : HoldsBits d.acc bs

theorem holdsBits_zero : HoldsBits 0 [] := fun _ => BitVec.getLsbD_zero

/-- The class action of a counted symbol appends its bit (R77, R78). -/
theorem HoldsBits.append {a : CmdWord} (h : HoldsBits a bs) {p : Fin Config.word}
    (hp : p.val = bs.length) (b : Bool) :
    HoldsBits (if b then a ||| bitMask p else a) (bs ++ [b]) := by
  intro k
  have hbit : (if b then a ||| bitMask p else a).getLsbD k =
      (bs.getD k false || (b && decide (k = bs.length))) := by
    cases b
    · simp [h k]
    · rw [if_pos rfl, getLsbD_or_bitMask, h k, hp, Bool.true_and]
  rw [hbit]
  rcases Nat.lt_trichotomy k bs.length with hk | rfl | hk
  · rw [List.getD_append _ _ _ _ hk]
    simp [hk.ne]
  · simp
  · simp [List.getElem?_eq_none, hk.le, hk.ne', Nat.succ_le_of_lt hk]

/-- Every assembly is short of a whole word: `BITPOS` is at most 15 (R21). -/
theorem Assembles.length_lt (h : Assembles d bs) : bs.length < Config.word :=
  h.bitpos_eq ▸ d.bitpos.isLt

/-- SHORT leaves the assembly as it is (R76). -/
theorem Assembles.short (h : Assembles d bs) (hc : classify (duration t d.prevTs) = .short) :
    Assembles (decodeSymbol d t) bs := by
  rw [decodeSymbol_short hc]
  exact ⟨h.bitpos_eq, h.acc_holds⟩

/-- A counted symbol short of the 16th joins the assembly (R77, R78). -/
theorem Assembles.counted (h : Assembles d bs) (hc : (classify (duration t d.prevTs)).bit = some b)
    (hlt : bs.length + 1 < Config.word) : Assembles (decodeSymbol d t) (bs ++ [b]) := by
  rw [decodeSymbol_counted hc (h.bitpos_eq ▸ hlt)]
  exact ⟨by simp [h.bitpos_eq], h.acc_holds.append h.bitpos_eq b⟩

/-- The 16th counted symbol latches the assembly with its own bit, and clears it (R81, R82). -/
theorem Assembles.completes (h : Assembles d bs)
    (hc : (classify (duration t d.prevTs)).bit = some b) (hlast : bs.length + 1 = Config.word) :
    HoldsBits (decodeSymbol d t).cmd (bs ++ [b]) ∧ Assembles (decodeSymbol d t) [] := by
  rw [decodeSymbol_completes hc (h.bitpos_eq ▸ hlast)]
  exact ⟨h.acc_holds.append h.bitpos_eq b, rfl, holdsBits_zero⟩

/-- The first gap, and the gaps of the rest as the decoder sees them after its first step (R75, step e). -/
theorem gapClasses_cons_decodeSymbol (d : Decoder w) (t : Stamp w) (ts : List (Stamp w)) :
    gapClasses d.prevTs (t :: ts) =
      classify (duration t d.prevTs) :: gapClasses (decodeSymbol d t).prevTs ts := by
  rw [decodeSymbol_prevTs, gapClasses_cons]

/-- Gaps that are all SHORT keep the assembly and `CMD` (R76). -/
theorem Assembles.decodeAll_short (h : Assembles d bs)
    (hlong : PulseClass.long ∉ gapClasses d.prevTs ts)
    (hnone : countedBits (gapClasses d.prevTs ts) = []) :
    (decodeAll d ts).cmd = d.cmd ∧ Assembles (decodeAll d ts) bs := by
  induction ts generalizing d with
  | nil => exact ⟨rfl, h⟩
  | cons t ts ih =>
    rw [gapClasses_cons_decodeSymbol] at hlong hnone
    obtain ⟨hhead, htail⟩ := not_or.mp (List.mem_cons.not.mp hlong)
    obtain hc | hc | ⟨b, hc⟩ := classify_cases (duration t d.prevTs)
    · rw [hc, countedBits_short] at hnone
      obtain ⟨hcmd, hasm⟩ := ih (h.short hc) htail hnone
      exact ⟨hcmd.trans (by rw [decodeSymbol_short hc]), hasm⟩
    · exact absurd hc.symm hhead
    · rw [countedBits_cons hc] at hnone
      exact absurd hnone (List.cons_ne_nil _ _)

/-- The generalisation of R53 to an assembly already under way: symbols that bring the counted bits
to 16 latch them all and leave an empty assembly. -/
theorem Assembles.decodeAll_completes (h : Assembles d bs)
    (hlong : PulseClass.long ∉ gapClasses d.prevTs ts)
    (hlen : bs.length + (countedBits (gapClasses d.prevTs ts)).length = Config.word) :
    HoldsBits (decodeAll d ts).cmd (bs ++ countedBits (gapClasses d.prevTs ts)) ∧
      Assembles (decodeAll d ts) [] := by
  induction ts generalizing d bs with
  | nil => exact absurd hlen h.length_lt.ne
  | cons t ts ih =>
    rw [gapClasses_cons_decodeSymbol] at hlong hlen ⊢
    obtain ⟨hhead, htail⟩ := not_or.mp (List.mem_cons.not.mp hlong)
    obtain hc | hc | ⟨b, hc⟩ := classify_cases (duration t d.prevTs)
    · rw [hc, countedBits_short] at hlen ⊢
      exact ih (h.short hc) htail hlen
    · exact absurd hc.symm hhead
    · rw [countedBits_cons hc] at hlen ⊢
      rw [List.length_cons] at hlen
      obtain hlast | hmore := Nat.eq_or_lt_of_le (Nat.succ_le_of_lt h.length_lt)
      · have hnone := List.length_eq_zero_iff.mp
          (show (countedBits (gapClasses (decodeSymbol d t).prevTs ts)).length = 0 by omega)
        obtain ⟨hword, hempty⟩ := h.completes hc hlast
        obtain ⟨hcmd, hasm⟩ := hempty.decodeAll_short htail hnone
        rw [decodeAll_cons, hcmd, hnone]
        exact ⟨hword, hasm⟩
      · rw [List.append_cons]
        refine ih (h.counted hc hmore) htail ?_
        rw [List.length_append, List.length_singleton]
        omega

end Sys2Proof.Machine
end

section
namespace Sys2Proof.Machine

/-- Settles O18: a cleared decoder assembles no bits yet, and the 16 counted symbols complete it. -/
theorem sixteenSymbolsAssembleLsbFirst : Obligations.SixteenSymbolsAssembleLsbFirst := by
  intro w d ts hpos hacc hlong hlen
  have hstart : Assembles d [] := ⟨hpos, hacc ▸ holdsBits_zero⟩
  obtain ⟨hword, hclear⟩ := hstart.decodeAll_completes hlong ((Nat.zero_add _).trans hlen)
  refine ⟨fun k hk => ?_, ?_, hclear.bitpos_eq, decodeAll_prevTs d ts⟩
  · rw [hword k, List.nil_append, List.getD_eq_getElem _ _ (hlen ▸ hk), List.getElem?_eq_getElem]
  · exact BitVec.eq_of_getLsbD_eq fun k _ => by rw [hclear.acc_holds k, holdsBits_zero k]

end Sys2Proof.Machine
end

/-! Proofs of the family 40_capture: TICK and EDGE (R62 to R65). -/

section
namespace Sys2Proof.Machine

variable {s : State}

/-- TICK has no guard (R62). -/
theorem exec_tick (s : State) : exec .tick s = .next (tickEffect s) := exec_of_enabled rfl

/-- EDGE has no guard (R63). -/
theorem exec_edge (s : State) : exec .edge s = .next (edgeEffect s) := exec_of_enabled rfl

/-- The successor of a stamp wraps at its width (R62). -/
theorem stamp_succ_toNat {w : Nat} (v : Stamp w) : (v + 1).toNat = (v.toNat + 1) % 2 ^ w := by
  rw [BitVec.toNat_add, BitVec.ofNat_eq_ofNat, BitVec.toNat_ofNat, Nat.add_mod_mod]

/-- `BUF[i]` after `BUF[i] <- v` is `v` (R11). -/
theorem State.readEntry_write_same (i : Nat) (v : Stamp s.cfg.tickWidth) :
    State.readEntry { s with buf := Memory.write s.buf i v } i = v :=
  State.readEntry_of_entry (Memory.entry_write_same i v s.buf)

/-- `BUF[i] <- v` leaves every other entry as it reads (R11, R63). -/
theorem State.readEntry_write_other {i k : Nat} (v : Stamp s.cfg.tickWidth) (h : k ≠ i) :
    State.readEntry { s with buf := Memory.write s.buf i v } k = s.readEntry k :=
  State.readEntry_congr (Memory.entry_write_other v h s.buf)

end Sys2Proof.Machine
end

section
namespace Sys2Proof.Machine

/-- Settles O9: an open capture with room writes `TICK` at `WP`, by read after write; otherwise the edge
is lost. -/
theorem edgeRecordsTickOrIsLost : Obligations.EdgeRecordsTickOrIsLost := by
  refine ⟨rfl, fun s => ⟨fun hopen hroom => ?_, fun hlost => ?_⟩⟩
  · refine ⟨Memory.write s.buf s.wp.val s.tick, ⟨s.wp.val + 1, Nat.succ_lt_succ hroom⟩, ?_, rfl,
      State.readEntry_write_same _ _, fun i hi => State.readEntry_write_other _ hi⟩
    rw [exec_edge, edgeEffect_of_open hopen hroom]
  · rw [exec_edge, edgeEffect_of_lost hlost]

/-- Settles O8: TICK is never refused, and its one update is the stamp's successor. -/
theorem tickAdvancesModuloItsWidth : Obligations.TickAdvancesModuloItsWidth :=
  ⟨rfl, fun s => ⟨s.tick + 1, stamp_succ_toNat s.tick, exec_tick s⟩⟩

end Sys2Proof.Machine
end

/-! Proofs of the family 41_classifier: the ranges of the classes (R70, R72). -/

section
namespace Sys2Proof.Machine

/-- The durations of a class (R70). -/
def PulseClass.Covers : PulseClass → Nat → Prop
  | .short, n => n ≤ 5
  | .low, n => 5 < n ∧ n ≤ 15
  | .high, n => 15 < n ∧ n ≤ 30
  | .long, n => 30 < n

variable {w : Nat} {d : Stamp w} {c : PulseClass} {n : Nat}

/-- Each branch of the comparator tree ends in the class that covers the duration. -/
theorem classify_covers (d : Stamp w) : (classify d).Covers d.toNat := by
  unfold classify
  split_ifs with hshort hlow hhigh
  · exact hshort
  · exact ⟨not_le.mp hshort, hlow⟩
  · exact ⟨not_le.mp hlow, hhigh⟩
  · exact not_le.mp hhigh

/-- The code of a class, from any duration it covers (R52, R70). -/
theorem PulseClass.Covers.code_toNat (h : c.Covers n) :
    c.code.toNat = if n ≤ 5 then 0b00 else if n ≤ 15 then 0b01 else if n ≤ 30 then 0b10 else 0b11 := by
  cases c with
  | short => exact (if_pos h).symm
  | low =>
    obtain ⟨hlo, hhi⟩ := h
    rw [if_neg hlo.not_ge, if_pos hhi]
    rfl
  | high =>
    obtain ⟨hlo, hhi⟩ := h
    rw [if_neg (by omega), if_neg hlo.not_ge, if_pos hhi]
    rfl
  | long =>
    have hlo : 30 < n := h
    rw [if_neg (by omega), if_neg (by omega), if_neg hlo.not_ge]
    rfl

theorem PulseClass.code_injective : Function.Injective PulseClass.code := by
  intro a b
  cases a <;> cases b <;> decide

/-- The ranges of two classes are disjoint: the code tells them apart. -/
theorem PulseClass.Covers.unique {c' : PulseClass} (h : c.Covers n) (h' : c'.Covers n) : c = c' :=
  PulseClass.code_injective (BitVec.eq_of_toNat_eq (h.code_toNat.trans h'.code_toNat.symm))

theorem classify_eq_iff_covers : classify d = c ↔ c.Covers d.toNat :=
  ⟨fun h => h ▸ classify_covers d, (classify_covers d).unique⟩

end Sys2Proof.Machine
end

section
namespace Sys2Proof.Machine

/-- Settles O13: the ranges of the classes cover every duration and are disjoint. -/
theorem classBoundariesAreExact : Obligations.ClassBoundariesAreExact := fun _ d =>
  ⟨classify_eq_iff_covers, classify_eq_iff_covers, classify_eq_iff_covers, classify_eq_iff_covers,
    (classify_covers d).code_toNat⟩

end Sys2Proof.Machine
end

/-! Proofs of the family 42_decoder: one symbol step in numbers (R75, R77, R79, R82). -/

section
namespace Sys2Proof.Machine

variable {w : Nat} {d : Stamp w}

/-- The duration as a number: the difference of the timestamps modulo `2^W` (R71). -/
theorem duration_toNat (ts prev : Stamp w) :
    (duration ts prev).toNat = (ts.toNat + (2 ^ w - prev.toNat)) % 2 ^ w := by
  rw [duration, BitVec.toNat_sub, Nat.add_comm]

/-- Between SHORT and LONG a symbol is counted, and its bit says on which side of 15 the duration lies
(R53, R70). -/
theorem bit_classify_of_between (hlo : 5 < d.toNat) (hhi : d.toNat ≤ 30) :
    (classify d).bit = some (!decide (d.toNat ≤ 15)) := by
  by_cases hlow : d.toNat ≤ 15
  · rw [classify_eq_iff_covers.mpr (show PulseClass.low.Covers d.toNat from ⟨hlo, hlow⟩),
      decide_eq_true hlow]
    rfl
  · rw [classify_eq_iff_covers.mpr (show PulseClass.high.Covers d.toNat from ⟨not_le.mp hlow, hhi⟩),
      decide_eq_false hlow]
    rfl

theorem bitMask_eq_ofNat (p : Fin Config.word) : bitMask p = BitVec.ofNat 16 (2 ^ p.val) := by
  rw [← bitMask_toNat, BitVec.ofNat_toNat, BitVec.setWidth_eq]

/-- The word of a counted symbol: the LOW action keeps `ACC`, the HIGH action sets bit `BITPOS`
(R77, R78). -/
theorem countedWord_eq (a : CmdWord) (p : Fin Config.word) (n : Nat) :
    (if !decide (n ≤ 15) then a ||| bitMask p else a) =
      if n ≤ 15 then a else a ||| BitVec.ofNat 16 (2 ^ p.val) := by
  rw [bitMask_eq_ofNat]
  by_cases h : n ≤ 15 <;> simp [h]

end Sys2Proof.Machine
end

section
namespace Sys2Proof.Machine

/-- Settles O16: the gap decides the class, and each class has its equation of the symbol step; a
counted symbol either advances `BITPOS` or completes the word. -/
theorem symbolStepFollowsTheTable : Obligations.SymbolStepFollowsTheTable := by
  intro w d ts
  dsimp only
  rw [← duration_toNat]
  refine ⟨decodeSymbol_prevTs d ts, fun hshort => ?_, fun hlong => ?_, fun hlo hhi => ?_⟩
  · rw [decodeSymbol_short (classify_eq_iff_covers.mpr hshort)]
    exact ⟨rfl, rfl, rfl⟩
  · rw [decodeSymbol_long (classify_eq_iff_covers.mpr hlong)]
    exact ⟨rfl, rfl, rfl⟩
  · have hbit := bit_classify_of_between hlo hhi
    refine ⟨fun hmore => ?_, fun hlast => ?_⟩
    · rw [decodeSymbol_counted hbit (Nat.succ_lt_succ hmore), countedWord_eq]
      exact ⟨rfl, rfl, rfl⟩
    · rw [decodeSymbol_completes hbit (congrArg Nat.succ hlast), countedWord_eq]
      exact ⟨rfl, rfl, rfl⟩

end Sys2Proof.Machine
end

/-! Proofs of the family 44_sequencer: POLL (R101). -/

section
namespace Sys2Proof.Machine

variable {s : State}

/-- The full flag is set exactly at `WP = 100` (R66). -/
theorem State.full_iff : s.full = true ↔ s.wp.val = 100 := beq_iff_eq

/-- POLL's one update, with the test of the full flag read as a number (R66, R101). -/
theorem pollEffect_eq (s : State) :
    pollEffect s = { s with seq := if s.wp.val = 100 then .drain else .dispatch } := by
  simp only [pollEffect, State.full_iff]

/-- POLL is guarded by `SEQ = POLL` (R49). -/
theorem exec_poll (h : s.seq = .poll) : exec .poll s = .next (pollEffect s) :=
  exec_of_enabled (beq_iff_eq.mpr h)

end Sys2Proof.Machine
end

section
namespace Sys2Proof.Machine

/-- Settles O32: POLL's guard holds, and its one update follows the full flag. -/
theorem pollTestsFull : Obligations.PollTestsFull :=
  ⟨rfl, fun s h => by rw [exec_poll h, pollEffect_eq]⟩

end Sys2Proof.Machine
end

/-! Proofs of the family other: codes and scripts (R48 to R50, R59). -/

section
namespace Sys2Proof

/-- The decoder gives every transaction back for its code (R49). -/
@[simp] theorem decode_encode (i : Instr) : decode (encode i) = some i := by
  cases i <;> rfl

/-- No code but its own is read as a transaction (R49, R61). -/
theorem encode_of_decode {c : Code} {i : Instr} (h : decode c = some i) : encode i = c := by
  revert c i
  decide

/-- The codes 7 to 15 spell nothing (R50). -/
theorem decode_of_reserved {c : Code} (h : 7 ≤ c.toNat) : decode c = none := by
  revert c
  decide

theorem decodeScriptFrom_cons_of_decode {n : Nat} {c : Code} {i : Instr} (h : decode c = some i)
    (cs : List Code) :
    decodeScriptFrom n (c :: cs) = (decodeScriptFrom (n + 1) cs).map (i :: ·) := by
  simp only [decodeScriptFrom, h]
  cases decodeScriptFrom (n + 1) cs <;> rfl

theorem decodeScriptFrom_cons_of_reserved {n : Nat} {c : Code} (h : decode c = none)
    (cs : List Code) : decodeScriptFrom n (c :: cs) = .error (n, c) := by
  simp only [decodeScriptFrom, h]

/-- Whatever stands after the codes of `is` is read from `is.length` lines further on (R59). -/
theorem decodeScriptFrom_encodeScript_append (is : List Instr) (cs : List Code) (n : Nat) :
    decodeScriptFrom n (encodeScript is ++ cs) =
      (decodeScriptFrom (n + is.length) cs).map (is ++ ·) := by
  induction is generalizing n with
  | nil => cases h : decodeScriptFrom n cs <;> simp [encodeScript, h, Except.map]
  | cons i is ih =>
    have htail : encodeScript (i :: is) ++ cs = encode i :: (encodeScript is ++ cs) := rfl
    rw [htail, decodeScriptFrom_cons_of_decode (decode_encode i), ih, List.length_cons,
      Nat.add_right_comm, Nat.add_assoc n]
    cases decodeScriptFrom (n + (is.length + 1)) cs <;> rfl

/-- A list of codes that decodes is the encoding of what it decodes to, from any line on (R61). -/
theorem encodeScript_of_decodeScriptFrom {n : Nat} {cs : List Code} {is : List Instr}
    (h : decodeScriptFrom n cs = .ok is) : encodeScript is = cs := by
  induction cs generalizing n is with
  | nil => cases h; rfl
  | cons c cs ih =>
    cases hc : decode c with
    | none => rw [decodeScriptFrom_cons_of_reserved hc] at h; cases h
    | some i =>
      rw [decodeScriptFrom_cons_of_decode hc] at h
      cases hcs : decodeScriptFrom (n + 1) cs with
      | error e => rw [hcs] at h; cases h
      | ok js =>
        rw [hcs] at h
        cases h
        exact congrArg₂ List.cons (encode_of_decode hc) (ih hcs)

/-- Settles O2: the codes of a script read back line by line, and a code that decodes is the code of
what it decodes to. -/
theorem scriptAndCodesRoundTrip : Obligations.ScriptAndCodesRoundTrip := by
  refine ⟨fun is => ?_, fun cs is h => encodeScript_of_decodeScriptFrom h⟩
  have h := decodeScriptFrom_encodeScript_append is [] 1
  rwa [List.append_nil, decodeScriptFrom, Except.map, List.append_nil] at h

/-- Settles O1: the decoder is evaluated at the seven codes. -/
theorem codesDecodeAsTabulated : Obligations.CodesDecodeAsTabulated := by
  unfold Obligations.CodesDecodeAsTabulated
  decide

end Sys2Proof
end

/-! Proofs of the family other: guards, fetch and step (R12, R49, R50, R111). -/

section
namespace Sys2Proof.Machine

variable {i : Instr} {s t : State} {c : Code} {cs : List Code} {r : Refusal}

/-- A transaction whose guard is false is refused by name (R12). -/
theorem exec_of_disabled (h : enabled i s = false) : exec i s = .refused (.notEnabled s.pos i) := by
  rw [exec_eq_whenEnabled, whenEnabled, h]
  rfl

/-- A transaction completes exactly when its guard holds (R12). -/
theorem exec_completes_iff : (∃ t, exec i s = .next t) ↔ enabled i s = true :=
  ⟨fun ⟨_, h⟩ => (exec_next_inv h).1, fun h => ⟨_, exec_of_enabled h⟩⟩

/-- The inversion lemma of `exec` for a refusal. -/
theorem exec_refused_inv (h : exec i s = .refused r) :
    enabled i s = false ∧ r = .notEnabled s.pos i := by
  cases hen : enabled i s with
  | true => rw [exec_of_enabled hen] at h; cases h
  | false => rw [exec_of_disabled hen] at h; cases h; exact ⟨rfl, rfl⟩

/-- DELAY_DONE is guarded by `SEQ = WAIT` (R49). -/
theorem exec_delayDone (h : s.seq = .wait) : exec .delayDone s = .next (delayDoneEffect s) :=
  exec_of_enabled (beq_iff_eq.mpr h)

/-- RESET has no guard (R125). -/
theorem exec_reset (s : State) : exec .reset s = .next (resetEffect s) := exec_of_enabled rfl

/-- DRAIN is guarded by `SEQ = DRAIN` (R49). -/
theorem exec_drain (h : s.seq = .drain) : exec .drain s = .next (drainEffect s) :=
  exec_of_enabled (beq_iff_eq.mpr h)

/-- DISPATCH is guarded by `SEQ = DISPATCH` (R49). -/
theorem exec_dispatch (h : s.seq = .dispatch) : exec .dispatch s = .next (dispatchEffect s) :=
  exec_of_enabled (beq_iff_eq.mpr h)

/-- Among the enabled transactions there is always TICK. -/
theorem State.enabledTxns_length_pos (s : State) : 0 < s.enabledTxns.length :=
  List.length_pos_of_mem (List.mem_filter.mpr ⟨List.mem_cons_self, rfl⟩ : Instr.tick ∈ s.enabledTxns)

/-- The free choice is one of the enabled transactions (R6, R118). -/
theorem State.enabled_freeTxn (s : State) : enabled s.freeTxn s = true := by
  have hlt := Nat.mod_lt (Config.freeChoice s.pos) s.enabledTxns_length_pos
  have hmem : s.freeTxn ∈ s.enabledTxns := by
    rw [State.freeTxn, List.getD_eq_getElem _ _ hlt]
    exact List.getElem_mem hlt
  exact (List.mem_filter.mp hmem).2

/-- A step with no script left takes the free choice. -/
theorem step_of_script_nil (h : s.script = []) : step s = exec s.freeTxn (s.advance s.freeTxn) := by
  simp only [step, State.fetch, h]

/-- A step takes the transaction that the next code decodes to. -/
theorem step_of_decode (h : s.script = c :: cs) (hc : decode c = some i) :
    step s = exec i (s.advance i) := by
  simp only [step, State.fetch, h, hc]

/-- A step refuses a reserved code (R50). -/
theorem step_of_reserved (h : s.script = c :: cs) (hc : decode c = none) :
    step s = .refused (.reservedCode (s.pos + 1) c) := by
  simp only [step, State.fetch, h, hc]

/-- With no script left a step runs: the free choice is enabled. -/
theorem step_completes_of_script_nil (h : s.script = []) :
    step s = .next (effectOf s.freeTxn (s.advance s.freeTxn)) := by
  rw [step_of_script_nil h]
  exact exec_of_enabled ((enabled_advance _ _ _).trans s.enabled_freeTxn)

/-- The inversion lemma of `step` for a refusal: the next code is reserved, or it decodes to a
transaction that is not enabled (R111). -/
theorem step_refused_inv (h : step s = .refused r) : ∃ c cs, s.script = c :: cs ∧
    ((decode c = none ∧ r = .reservedCode (s.pos + 1) c) ∨
      ∃ i, decode c = some i ∧ enabled i s = false ∧ r = .notEnabled (s.pos + 1) i) := by
  cases hs : s.script with
  | nil => rw [step_completes_of_script_nil hs] at h; cases h
  | cons c cs =>
    refine ⟨c, cs, rfl, ?_⟩
    cases hc : decode c with
    | none => rw [step_of_reserved hs hc] at h; cases h; exact .inl ⟨rfl, rfl⟩
    | some i =>
      rw [step_of_decode hs hc] at h
      obtain ⟨hen, hr⟩ := exec_refused_inv h
      exact .inr ⟨i, rfl, (enabled_advance i i s).symm.trans hen, hr⟩

/-- Settles O3: the codes before the reserved one read back, which puts it at its line; and the step
refuses what the decoder refuses. -/
theorem reservedCodeRefusedAtItsPosition : Obligations.ReservedCodeRefusedAtItsPosition := by
  refine ⟨fun is c cs hc => ?_, fun s c cs hs hc => step_of_reserved hs (decode_of_reserved hc)⟩
  rw [decodeScript, decodeScriptFrom_encodeScript_append,
    decodeScriptFrom_cons_of_reserved (decode_of_reserved hc), Nat.add_comm]
  rfl

/-- Settles O4: the fetch of a scripted transaction. -/
theorem stepRunsDecodedTransaction : Obligations.StepRunsDecodedTransaction := by
  intro s c cs i hs hc
  rw [step_of_decode hs hc, State.advance, hs, List.tail_cons]

/-- Settles O5: the free choice is enabled, so the step runs it. -/
theorem freeStepTakesAnEnabledTransaction : Obligations.FreeStepTakesAnEnabledTransaction := by
  intro s hs
  refine ⟨s.freeTxn, _, s.enabled_freeTxn, ?_, step_completes_of_script_nil hs⟩
  rw [step_of_script_nil hs, State.advance, hs, List.tail_nil, ← hs]

/-- Settles O6: each guard read as the value of `SEQ` that it tests. -/
theorem transactionCompletesExactlyWhenEnabled :
    Obligations.TransactionCompletesExactlyWhenEnabled := by
  refine fun i s => ⟨exec_completes_iff.trans ?_, fun h => ?_⟩
  · cases i with
    | tick | edge | reset => exact iff_of_true rfl trivial
    | delayDone | poll | drain | dispatch => exact beq_iff_eq
  · exact exec_of_disabled (Bool.eq_false_of_not_eq_true (exec_completes_iff.not.mp h))

/-- Settles O7: there is no fault to answer, and a refusal inverts to one of the two grounds. -/
theorem onlyReservedOrDisabledIsRefused : Obligations.OnlyReservedOrDisabledIsRefused :=
  ⟨fun _ f => (nomatch f), fun _ _ => step_refused_inv⟩

end Sys2Proof.Machine
end

/-! Proofs of the family other: the classifier's counts and the duration (R71, R73). -/

section
namespace Sys2Proof.Machine

variable {w : Nat} {c : PulseClass}

/-- How many of the first `n` numbers lie from `lo` up to below `hi`. -/
theorem countP_range_interval (lo hi n : Nat) :
    (List.range n).countP (fun k => lo ≤ k ∧ k < hi) = min n hi - min n lo := by
  induction n with
  | zero => simp
  | succ n ih =>
    rw [List.range_succ, List.countP_append, ih, List.countP_singleton]
    by_cases h : lo ≤ n ∧ n < hi
    · rw [if_pos (decide_eq_true h)]
      omega
    · rw [if_neg (by simpa using h)]
      omega

/-- A class that covers the durations from `lo` up to below `hi` has that many of the `2^w` durations. -/
theorem countP_classify {lo hi : Nat} (h : ∀ n < 2 ^ w, c.Covers n ↔ lo ≤ n ∧ n < hi) :
    (List.range (2 ^ w)).countP (fun n => classify (BitVec.ofNat w n) = c) =
      min (2 ^ w) hi - min (2 ^ w) lo := by
  rw [← countP_range_interval]
  refine List.countP_congr fun n hn => ?_
  have hlt := List.mem_range.mp hn
  rw [decide_eq_true_iff, decide_eq_true_iff, classify_eq_iff_covers, BitVec.toNat_ofNat,
    Nat.mod_eq_of_lt hlt, h n hlt]

/-- Settles O14: each class is an interval below `2^w`, since 31 still fits. -/
theorem classSizesForEveryWidth : Obligations.ClassSizesForEveryWidth := by
  intro w hw
  have hfit : 2 ^ 5 ≤ 2 ^ w := Nat.pow_le_pow_right Nat.two_pos hw
  refine ⟨?_, ?_, ?_, ?_⟩
  · rw [countP_classify (lo := 0) (hi := 6) fun n _ => by simp only [PulseClass.Covers]; omega]
    omega
  · rw [countP_classify (lo := 6) (hi := 16) fun n _ => by simp only [PulseClass.Covers]; omega]
    omega
  · rw [countP_classify (lo := 16) (hi := 31) fun n _ => by simp only [PulseClass.Covers]; omega]
    omega
  · rw [countP_classify (lo := 31) (hi := 2 ^ w) fun n hn => by simp only [PulseClass.Covers]; omega]
    omega

/-- The duration of a stamp `n` ticks later is `n` modulo `2^W` (R71). -/
theorem duration_add_ofNat (v : Stamp w) (n : Nat) :
    (duration (v + BitVec.ofNat w n) v).toNat = n % 2 ^ w := by
  rw [duration, add_sub_cancel_left, BitVec.toNat_ofNat]

/-- Settles O15: the difference modulo `2^w` wraps exactly when the timestamp is the smaller one. -/
theorem durationIsModularDifference : Obligations.DurationIsModularDifference := by
  refine fun w ts prev => ⟨?_, duration_add_ofNat prev⟩
  have hts := ts.isLt
  have hprev := prev.isLt
  rw [duration_toNat]
  split_ifs with hle
  · rw [show ts.toNat + (2 ^ w - prev.toNat) = ts.toNat - prev.toNat + 2 ^ w by omega,
      Nat.add_mod_right, Nat.mod_eq_of_lt (by omega)]
  · rw [Nat.mod_eq_of_lt (by omega)]
    omega

end Sys2Proof.Machine
end

/-! Proofs of the family other: the assembly, the words of a list of timestamps, and DRAIN (R74 to R86). -/

section
namespace Sys2Proof.Machine

variable {w : Nat} {d : Decoder w} {t : Stamp w} {ts : List (Stamp w)} {b : Bool} {s : State}

/-- The class action of a counted symbol fills bit `BITPOS`, so `ACC` stays below twice the bound. -/
theorem countedAcc_lt {a : CmdWord} {p : Fin Config.word} (h : a.toNat < 2 ^ p.val) (b : Bool) :
    (if b then a ||| bitMask p else a).toNat < 2 ^ (p.val + 1) := by
  have hle : 2 ^ p.val < 2 ^ (p.val + 1) := Nat.pow_lt_pow_succ (by decide)
  cases b with
  | false => exact h.trans hle
  | true =>
    rw [if_pos rfl, BitVec.toNat_or, bitMask_toNat]
    exact Nat.or_lt_two_pow (h.trans hle) hle

/-- A symbol step keeps `ACC < 2^BITPOS` (R74). -/
theorem decodeSymbol_acc_lt (h : d.acc.toNat < 2 ^ d.bitpos.val) (t : Stamp w) :
    (decodeSymbol d t).acc.toNat < 2 ^ (decodeSymbol d t).bitpos.val := by
  obtain hc | hc | ⟨b, hc⟩ := classify_cases (duration t d.prevTs)
  · rw [decodeSymbol_short hc]
    exact h
  · rw [decodeSymbol_long hc]
    exact Nat.one_pos
  · obtain hlast | hmore := Nat.eq_or_lt_of_le (Nat.succ_le_of_lt d.bitpos.isLt)
    · rw [decodeSymbol_completes hc hlast]
      exact Nat.one_pos
    · rw [decodeSymbol_counted hc hmore]
      exact countedAcc_lt h b

/-- The symbol steps of a list keep `ACC < 2^BITPOS` (R74). -/
theorem decodeAll_acc_lt (h : d.acc.toNat < 2 ^ d.bitpos.val) (ts : List (Stamp w)) :
    (decodeAll d ts).acc.toNat < 2 ^ (decodeAll d ts).bitpos.val := by
  induction ts generalizing d with
  | nil => exact h
  | cons t ts ih => exact ih (decodeSymbol_acc_lt h t)

/-- Settles O17: the symbol step keeps the bound, and a word below `2^BITPOS` has bit `BITPOS` clear. -/
theorem symbolStepKeepsTheAssemblyBound : Obligations.SymbolStepKeepsTheAssemblyBound :=
  fun _ _ ts h => ⟨decodeSymbol_acc_lt h ts, Nat.testBit_lt_two_pow h⟩

/-- Gaps with no LONG that bring `BITPOS` to at most 15 only advance it: `CMD` stays (R85). -/
theorem decodeAll_partial (hlong : PulseClass.long ∉ gapClasses d.prevTs ts)
    (hlen : d.bitpos.val + (countedBits (gapClasses d.prevTs ts)).length < Config.word) :
    (decodeAll d ts).cmd = d.cmd ∧
      (decodeAll d ts).bitpos.val = d.bitpos.val + (countedBits (gapClasses d.prevTs ts)).length := by
  induction ts generalizing d with
  | nil => exact ⟨rfl, rfl⟩
  | cons t ts ih =>
    rw [gapClasses_cons_decodeSymbol] at hlong hlen ⊢
    obtain ⟨hhead, htail⟩ := not_or.mp (List.mem_cons.not.mp hlong)
    obtain hc | hc | ⟨b, hc⟩ := classify_cases (duration t d.prevTs)
    · rw [hc, countedBits_short] at hlen ⊢
      have hstep := decodeSymbol_short hc
      obtain ⟨hcmd, hpos⟩ := ih htail (by rw [hstep] at hlen ⊢; exact hlen)
      exact ⟨hcmd.trans (by rw [hstep]), hpos.trans (by rw [hstep])⟩
    · exact absurd hc.symm hhead
    · rw [countedBits_cons hc, List.length_cons] at hlen ⊢
      have hstep := decodeSymbol_counted hc (show d.bitpos.val + 1 < Config.word by omega)
      have hpos' : (decodeSymbol d t).bitpos.val = d.bitpos.val + 1 := by rw [hstep]
      obtain ⟨hcmd, hpos⟩ := ih htail (by omega)
      exact ⟨hcmd.trans (by rw [hstep]), hpos.trans (by omega)⟩

/-- Settles O19: a partial frame only advances `BITPOS`, the LONG after it clears the assembly, and so
does the start of a drain under decision D7. -/
theorem partialFrameIsNeverPublished : Obligations.PartialFrameIsNeverPublished := by
  refine ⟨fun w d ts hpos hlong hlen => ?_, fun s hacc => if_pos hacc⟩
  obtain ⟨hcmd, hbits⟩ := decodeAll_partial hlong (by rwa [hpos, Nat.zero_add])
  rw [hpos, Nat.zero_add] at hbits
  refine ⟨hcmd, hbits, fun t ht => ?_⟩
  rw [decodeAll_append, decodeAll_cons, decodeAll_nil, decodeSymbol_long ht, hcmd]

/-- A symbol step that completes no word keeps `CMD` (R81). -/
theorem decodeSymbol_cmd_of_not_completesWord (h : completesWord d t = false) :
    (decodeSymbol d t).cmd = d.cmd := by
  rw [decodeSymbol, completeSymbol, dif_neg (beq_eq_false_iff_ne.mp h)]

/-- `BITPOS` advances by at most one (R76 to R79). -/
theorem classAction_bitpos_le (c : PulseClass) (a : CmdWord) (p : Fin Config.word) :
    (classAction c a p).2.val ≤ p.val + 1 := by
  cases c with
  | short => exact Nat.le_succ _
  | low | high => exact le_refl _
  | long => exact Nat.zero_le _

/-- One symbol step pays for at most one counted symbol, and a completed word costs 16 of them (R86). -/
theorem decodeSymbol_bitpos_le (d : Decoder w) (t : Stamp w) :
    16 * (if completesWord d t then 1 else 0) + (decodeSymbol d t).bitpos.val ≤ d.bitpos.val + 1 := by
  have hle := classAction_bitpos_le (classify (duration t d.prevTs)) d.acc d.bitpos
  rw [decodeSymbol, completeSymbol]
  by_cases h : (classAction (classify (duration t d.prevTs)) d.acc d.bitpos).2.val = Config.word
  · have hword : completesWord d t = true := beq_iff_eq.mpr h
    rw [dif_pos h, if_pos hword]
    exact h.ge.trans hle
  · have hword : ¬completesWord d t = true := beq_iff_eq.not.mpr h
    rw [dif_neg h, if_neg hword, Nat.mul_zero, Nat.zero_add]
    exact hle

theorem decodeAll_cmd_of_wordsCompleted_eq_zero (h : wordsCompleted d ts = 0) :
    (decodeAll d ts).cmd = d.cmd := by
  induction ts generalizing d with
  | nil => rfl
  | cons t ts ih =>
    rw [wordsCompleted] at h
    obtain ⟨hhead, htail⟩ := Nat.add_eq_zero_iff.mp h
    have hnot : completesWord d t = false := by simpa using hhead
    exact (ih htail).trans (decodeSymbol_cmd_of_not_completesWord hnot)

theorem wordsCompleted_bound (d : Decoder w) (ts : List (Stamp w)) :
    16 * wordsCompleted d ts + (decodeAll d ts).bitpos.val ≤ d.bitpos.val + ts.length := by
  induction ts generalizing d with
  | nil => exact le_of_eq (Nat.zero_add _)
  | cons t ts ih =>
    have hhead := decodeSymbol_bitpos_le d t
    have htail := ih (decodeSymbol d t)
    rw [decodeAll_cons, wordsCompleted, List.length_cons, Nat.mul_add]
    omega

/-- Settles O20: both clauses by induction over the timestamps. -/
theorem commandChangesOnlyOnACompletedWord : Obligations.CommandChangesOnlyOnACompletedWord :=
  fun _ d ts => ⟨decodeAll_cmd_of_wordsCompleted_eq_zero, wordsCompleted_bound d ts⟩

/-- A drain reads at most 100 entries (R80). -/
theorem State.drainEntries_length (s : State) : s.drainEntries.length = 100 - s.rp.val := by
  rw [State.drainEntries, List.length_map, List.length_range']
  rfl

/-- Settles O21: 100 timestamps hold at most 6 words, or 7 with up to 15 symbols carried over. -/
theorem drainCompletesAtMostSevenWords : Obligations.DrainCompletesAtMostSevenWords := by
  intro s
  have hbound := wordsCompleted_bound s.drainStart s.drainEntries
  rw [s.drainEntries_length] at hbound
  by_cases hacc : s.cfg.accPerDrain = true
  · have hstart : s.drainStart.bitpos.val = 0 := by rw [State.drainStart, if_pos hacc]; rfl
    rw [if_pos hacc]
    omega
  · have hstart : s.drainStart.bitpos.val < 16 := s.drainStart.bitpos.isLt
    rw [if_neg hacc]
    omega

/-- DRAIN as one record update (R80). -/
theorem drainEffect_eq (s : State) :
    drainEffect s =
      { s with prevTs := (decodeAll s.drainStart s.drainEntries).prevTs,
               acc := (decodeAll s.drainStart s.drainEntries).acc,
               bitpos := (decodeAll s.drainStart s.drainEntries).bitpos,
               cmd := (decodeAll s.drainStart s.drainEntries).cmd,
               wp := 0, rp := 0, seq := .dispatch } := rfl

/-- Settles O22: DRAIN's guard holds, and its effect is the one record update. -/
theorem drainDecodesTheBufferInOrder : Obligations.DrainDecodesTheBufferInOrder :=
  ⟨rfl, fun s h => (exec_drain h).trans (congrArg _ (drainEffect_eq s))⟩

/-- Only LONG gaps clear the assembly and leave `CMD` (R79). -/
theorem decodeAll_of_all_long (d : Decoder w) (t : Stamp w)
    (h : ∀ c ∈ gapClasses d.prevTs (t :: ts), c = .long) :
    decodeAll d (t :: ts) = { prevTs := ts.getLastD t, acc := 0, bitpos := 0, cmd := d.cmd } := by
  induction ts generalizing d t with
  | nil => exact decodeSymbol_long (h _ List.mem_cons_self)
  | cons u us ih =>
    rw [gapClasses_cons_decodeSymbol] at h
    obtain ⟨hhead, htail⟩ := List.forall_mem_cons.mp h
    rw [decodeAll_cons, ih _ _ htail, decodeSymbol_long hhead, List.getLastD_cons]

/-- The start of a drain keeps `PREV_TS` and `CMD` (R80, R83). -/
theorem State.drainStart_prevTs_cmd (s : State) :
    s.drainStart.prevTs = s.prevTs ∧ s.drainStart.cmd = s.cmd := by
  unfold State.drainStart
  split <;> exact ⟨rfl, rfl⟩

/-- A drain from `RP = 0` reads the whole buffer (R80). -/
theorem State.drainEntries_of_rp_zero (h : s.rp = 0) :
    s.drainEntries = (List.range 100).map s.readEntry := by
  rw [State.drainEntries, h, List.range_eq_range']
  rfl

/-- Settles O23: the 100 LONG gaps clear the assembly, and the last entry read is `BUF[99]`. -/
theorem allLongDrainLeavesTheCommand : Obligations.AllLongDrainLeavesTheCommand := by
  intro s hseq hrp hall
  obtain ⟨hprev, hcmd⟩ := s.drainStart_prevTs_cmd
  have hlast : ((List.range' 1 99).map s.readEntry).getLastD (s.readEntry 0) = s.readEntry 99 := rfl
  have hsplit : (List.range 100).map s.readEntry =
      s.readEntry 0 :: (List.range' 1 99).map s.readEntry := rfl
  rw [← hprev, hsplit] at hall
  have hdec := decodeAll_of_all_long _ _ hall
  rw [← hsplit, ← s.drainEntries_of_rp_zero hrp, hlast, hcmd] at hdec
  rw [exec_drain hseq, drainEffect_eq, hdec]

end Sys2Proof.Machine
end

/-! Proofs of the family other: RESET, and the branches of DISPATCH (R88 to R96, R125). -/

section
namespace Sys2Proof.Machine

variable {s t : State} {p : Port} {k : DelayKind} {b : Branch}

/-- RESET as one record update (R125). -/
theorem resetEffect_eq (s : State) :
    resetEffect s =
      { s with tick := 0, buf := [], wp := 0, rp := 0, prevTs := 0, acc := 0, bitpos := 0, cmd := 0,
               out := 0, capEn := s.cfg.startupCapture, seq := .wait, dkind := .startup,
               dphase := ⟨0, by decide⟩, dreqN := 1000, trace := s.trace ++ [.delayRequest 1000],
               bufDraw := s.bufDraw + 1 } := rfl

/-- Settles O42: RESET has no guard, and its effect is the one record update. -/
theorem resetGivesEveryElementItsValue : Obligations.ResetGivesEveryElementItsValue := by
  refine ⟨rfl, fun s p hp => ⟨[], s.bufDraw + 1, ?_⟩⟩
  have hphase : p = ⟨0, by decide⟩ := Fin.ext hp
  rw [exec_reset, resetEffect_eq, hphase]

/-- The pattern of a key branch, which is one port write and no more (R90 to R92). -/
def Branch.keyPattern : Branch → Option Port
  | .forward => some pForward
  | .rewind => some pRewind
  | .play => some pPlay
  | .stop => none
  | .idle => none

/-- The sequence that a blocking branch starts (R93, R95). -/
def Branch.sequence : Branch → Option DelayKind
  | .forward => none
  | .rewind => none
  | .play => none
  | .stop => some .stop
  | .idle => some .idle

/-- Every branch is a key branch or a blocking one (R88). -/
theorem Branch.keyPattern_or_sequence (b : Branch) :
    (∃ p, b.keyPattern = some p) ∨ ∃ k, b.sequence = some k := by
  cases b with
  | forward | rewind | play => exact .inl ⟨_, rfl⟩
  | stop | idle => exact .inr ⟨_, rfl⟩

/-- A key branch starts no sequence (R90 to R92). -/
theorem Branch.sequence_eq_none (h : b.keyPattern = some p) : b.sequence = none := by
  cases b with
  | forward | rewind | play => rfl
  | stop | idle => cases h

/-- No branch starts the startup delay (R93, R95). -/
theorem Branch.ne_startup_of_sequence (h : b.sequence = some k) : k ≠ .startup := by
  rintro rfl
  cases b <;> cases h

/-- A key branch is its one port write (R90 to R92). -/
theorem dispatchEffect_of_keyPattern (h : (select s.cfg s.cmd).keyPattern = some p) :
    dispatchEffect s = s.dispatchOnce p := by
  unfold dispatchEffect
  cases hsel : select s.cfg s.cmd with
  | forward | rewind | play => rw [hsel] at h; cases h; rfl
  | stop | idle => rw [hsel] at h; cases h

/-- A blocking branch starts its sequence (R93, R95). -/
theorem dispatchEffect_of_sequence (h : (select s.cfg s.cmd).sequence = some k) :
    dispatchEffect s = s.dispatchBlocking k := by
  unfold dispatchEffect
  cases hsel : select s.cfg s.cmd with
  | forward | rewind | play => rw [hsel] at h; cases h
  | stop | idle => rw [hsel] at h; cases h; rfl

end Sys2Proof.Machine
end

/-! Proofs of the family other: what every step keeps (R16 to R27, R47, R74, R80). -/

section
namespace Sys2Proof.Machine

variable {s t : State} {k : DelayKind}

/-- A phase of a blocking sequence with its request fits the kind of the sequence (R26, R27). -/
theorem DelayFits.of_sequence (hk : s.dkind ≠ .startup) (hp : s.dphase.val < phaseCount s.dkind)
    (hn : s.dreqN = phaseHold s.dkind) : DelayFits s := by
  unfold DelayFits
  split
  next h => exact absurd h hk
  next h => rw [hn, h]; rfl
  next h => rw [h] at hp hn; exact ⟨hp, hn⟩

/-- Every sequence holds its phases for one of the three requests (R27). -/
theorem phaseHold_request (k : DelayKind) :
    phaseHold k = Config.dStartup ∨ phaseHold k = Config.dStop ∨ phaseHold k = Config.dIdle := by
  cases k <;> simp [phaseHold]

theorem phaseCount_pos (h : k ≠ .startup) : 0 < phaseCount k := by
  cases k with
  | startup => exact absurd rfl h
  | stop | idle => decide

/-- Outside a delay capture is open (R24). -/
theorem Inv.capEn_of_ne_wait (h : Inv s) (hseq : s.seq ≠ .wait) : s.capEn = true :=
  Bool.eq_true_of_not_eq_false fun hc => hseq (h.closed hc).1

/-- Capture is open in a blocking sequence (R24). -/
theorem Inv.capEn_of_ne_startup (h : Inv s) (hk : s.dkind ≠ .startup) : s.capEn = true :=
  Bool.eq_true_of_not_eq_false fun hc => hk (h.closed hc).2.1

theorem inv_resetWith (c : Config) : Inv (State.resetWith c) where
  bufWf := rfl
  recorded _ hi := absurd hi (Nat.not_lt_zero _)
  rpZero := rfl
  accBound := Nat.one_pos
  drainFull := nofun
  delay _ := ⟨rfl, rfl⟩
  request := .inl rfl
  closed _ := ⟨rfl, rfl, rfl⟩
  startupCapture := id

/-- Moving the script on touches no element that the invariant speaks of. -/
theorem Inv.advance (h : Inv s) (i : Instr) : Inv (s.advance i) :=
  ⟨h.bufWf, h.recorded, h.rpZero, h.accBound, h.drainFull, h.delay, h.request, h.closed,
    h.startupCapture⟩

theorem Inv.tickEffect (h : Inv s) : Inv (tickEffect s) :=
  ⟨h.bufWf, h.recorded, h.rpZero, h.accBound, h.drainFull, h.delay, h.request, h.closed,
    h.startupCapture⟩

theorem Inv.edgeEffect (h : Inv s) : Inv (edgeEffect s) := by
  obtain heq | ⟨hopen, hroom, heq⟩ := edgeEffect_cases s <;> rw [heq]
  · exact h
  · refine ⟨Memory.wf_write hroom h.bufWf, fun i hi => ?_, h.rpZero, h.accBound,
      fun hd => absurd (h.drainFull hd) hroom.ne, h.delay, h.request,
      fun hc => absurd hc (by simp [hopen]), h.startupCapture⟩
    by_cases hwp : i = s.wp.val
    · rw [hwp, Memory.entry_write_same]
      rfl
    · rw [Memory.entry_write_other _ hwp]
      exact h.recorded i (Nat.lt_of_le_of_ne (Nat.le_of_lt_succ hi) hwp)

theorem Inv.delayDoneEffect (h : Inv s) : Inv (delayDoneEffect s) := by
  obtain ⟨_, heq⟩ | ⟨hk, hmore, heq⟩ | ⟨hk, _, heq⟩ := delayDoneEffect_cases s <;> rw [heq]
  · exact ⟨h.bufWf, h.recorded, h.rpZero, h.accBound, nofun, nofun, h.request, nofun, fun _ => rfl⟩
  · have hopen := h.capEn_of_ne_startup hk
    exact ⟨h.bufWf, h.recorded, h.rpZero, h.accBound, h.drainFull,
      fun _ => DelayFits.of_sequence hk hmore rfl, phaseHold_request _,
      fun hc => absurd hc (by simp [hopen]), fun _ => hopen⟩
  · have hopen := h.capEn_of_ne_startup hk
    exact ⟨h.bufWf, h.recorded, h.rpZero, h.accBound, nofun, nofun, h.request,
      fun hc => absurd hc (by simp [hopen]), fun _ => hopen⟩

/-- RESET makes the invariant hold, whatever held before. -/
theorem inv_resetEffect (s : State) : Inv (resetEffect s) := by
  rw [resetEffect_eq]
  exact ⟨rfl, fun _ hi => absurd hi (Nat.not_lt_zero _), rfl, Nat.one_pos, nofun, fun _ => ⟨rfl, rfl⟩,
    .inl rfl, fun _ => ⟨rfl, rfl, rfl⟩, id⟩

theorem Inv.pollEffect (h : Inv s) (hseq : s.seq = .poll) : Inv (pollEffect s) := by
  have hopen := h.capEn_of_ne_wait (by simp [hseq])
  rw [pollEffect_eq]
  refine ⟨h.bufWf, h.recorded, h.rpZero, h.accBound, fun hd => ?_, fun hw => ?_, h.request,
    fun hc => absurd hc (by simp [hopen]), h.startupCapture⟩
  · by_contra hfull
    exact absurd ((if_neg hfull).symm.trans hd) nofun
  · by_cases hfull : s.wp.val = 100
    · exact absurd ((if_pos hfull).symm.trans hw) nofun
    · exact absurd ((if_neg hfull).symm.trans hw) nofun

theorem State.drainStart_acc_lt (h : s.acc.toNat < 2 ^ s.bitpos.val) :
    s.drainStart.acc.toNat < 2 ^ s.drainStart.bitpos.val := by
  unfold State.drainStart
  split
  · exact Nat.one_pos
  · exact h

theorem Inv.drainEffect (h : Inv s) (hseq : s.seq = .drain) : Inv (drainEffect s) := by
  have hopen := h.capEn_of_ne_wait (by simp [hseq])
  rw [drainEffect_eq]
  exact ⟨h.bufWf, fun _ hi => absurd hi (Nat.not_lt_zero _), rfl,
    decodeAll_acc_lt (State.drainStart_acc_lt h.accBound) _, nofun, nofun, h.request,
    fun hc => absurd hc (by simp [hopen]), h.startupCapture⟩

theorem Inv.dispatchEffect (h : Inv s) (hseq : s.seq = .dispatch) : Inv (dispatchEffect s) := by
  have hopen := h.capEn_of_ne_wait (by simp [hseq])
  obtain ⟨p, hp⟩ | ⟨k, hk⟩ := (select s.cfg s.cmd).keyPattern_or_sequence
  · rw [dispatchEffect_of_keyPattern hp, dispatchOnce_eq]
    exact ⟨h.bufWf, h.recorded, h.rpZero, h.accBound, nofun, nofun, h.request,
      fun hc => absurd hc (by simp [hopen]), h.startupCapture⟩
  · have hne := Branch.ne_startup_of_sequence hk
    rw [dispatchEffect_of_sequence hk, dispatchBlocking_eq]
    exact ⟨h.bufWf, h.recorded, h.rpZero, h.accBound, nofun,
      fun _ => DelayFits.of_sequence hne (phaseCount_pos hne) rfl, phaseHold_request k,
      fun hc => absurd hc (by simp [hopen]), h.startupCapture⟩

/-- Every transaction whose guard holds keeps the invariant. -/
theorem Inv.effectOf (h : Inv s) {i : Instr} (hen : enabled i s = true) : Inv (effectOf i s) := by
  cases i with
  | tick => exact h.tickEffect
  | edge => exact h.edgeEffect
  | delayDone => exact h.delayDoneEffect
  | reset => exact inv_resetEffect s
  | poll => exact h.pollEffect (beq_iff_eq.mp hen)
  | drain => exact h.drainEffect (beq_iff_eq.mp hen)
  | dispatch => exact h.dispatchEffect (beq_iff_eq.mp hen)

/-- Settles O45: a step is the effect of an enabled transaction at the state moved on by one line. -/
theorem everyStepKeepsTheInvariant : Obligations.EveryStepKeepsTheInvariant := by
  intro s t h hstep
  obtain ⟨i, -, hen, rfl⟩ := step_next_inv hstep
  exact (h.advance i).effectOf hen

/-- Settles O44: the block is one of the legal configurations. -/
theorem invariantHoldsAtReset : Obligations.InvariantHoldsAtReset :=
  ⟨inv_resetWith Config.chip, inv_resetWith⟩

end Sys2Proof.Machine
end

/-! Proofs of the family other: stale and unspecified entries cannot be observed (R47, U10). -/

section
namespace Sys2Proof.Machine

variable {s t : State} {i : Instr}

theorem SameButStale.advance (h : SameButStale s t) (i : Instr) :
    SameButStale (s.advance i) (t.advance i) := by
  obtain ⟨b, d, rfl, hb⟩ := h
  exact ⟨b, d, rfl, hb⟩

/-- The guards read no entry. -/
theorem SameButStale.enabled_eq (h : SameButStale s t) (i : Instr) : enabled i t = enabled i s := by
  obtain ⟨b, d, rfl, -⟩ := h
  cases i <;> rfl

/-- The fetch, a free choice included, reads no entry. -/
theorem SameButStale.fetch_eq (h : SameButStale s t) : t.fetch = s.fetch := by
  have hfree : t.freeTxn = s.freeTxn := by
    have hen : t.enabledTxns = s.enabledTxns := List.filter_congr fun i _ => h.enabled_eq i
    obtain ⟨b, d, rfl, -⟩ := h
    rw [State.freeTxn, hen, State.freeTxn]
  obtain ⟨b, d, rfl, -⟩ := h
  rw [State.fetch, hfree, State.fetch]

theorem SameButStale.trace_out_eq (h : SameButStale s t) : t.trace = s.trace ∧ t.out = s.out := by
  obtain ⟨b, d, rfl, -⟩ := h
  exact ⟨rfl, rfl⟩

theorem SameButStale.tickEffect (h : SameButStale s t) : SameButStale (tickEffect s) (tickEffect t) := by
  obtain ⟨b, d, rfl, hb⟩ := h
  exact ⟨b, d, rfl, hb⟩

/-- An edge is recorded, or it is lost (R63, R64). -/
theorem State.capture_open_or_lost (s : State) :
    (s.capEn = true ∧ s.wp.val < Config.cap) ∨ (s.capEn = false ∨ s.wp.val = Config.cap) := by
  cases s.capEn with
  | false => exact .inr (.inl rfl)
  | true => exact (Nat.lt_or_eq_of_le (Nat.le_of_lt_succ s.wp.isLt)).imp (⟨rfl, ·⟩) .inr

/-- EDGE reads no entry, and writes the same one in both. -/
theorem SameButStale.edgeEffect (h : SameButStale s t) : SameButStale (edgeEffect s) (edgeEffect t) := by
  obtain ⟨b, d, rfl, hb⟩ := h
  obtain ⟨hopen, hroom⟩ | hlost := s.capture_open_or_lost
  · rw [edgeEffect_of_open hopen hroom,
      edgeEffect_of_open (s := { s with buf := b, bufDraw := d }) hopen hroom]
    refine ⟨Memory.write b s.wp.val s.tick, d, rfl, fun i hi => ?_⟩
    by_cases hwp : i = s.wp.val
    · rw [hwp, Memory.entry_write_same, Memory.entry_write_same]
    · rw [Memory.entry_write_other _ hwp, Memory.entry_write_other _ hwp]
      exact hb i (Nat.lt_of_le_of_ne (Nat.le_of_lt_succ hi) hwp)
  · rw [edgeEffect_of_lost hlost, edgeEffect_of_lost (s := { s with buf := b, bufDraw := d }) hlost]
    exact ⟨b, d, rfl, hb⟩

theorem SameButStale.delayDoneEffect (h : SameButStale s t) :
    SameButStale (delayDoneEffect s) (delayDoneEffect t) := by
  obtain ⟨b, d, rfl, hb⟩ := h
  by_cases hk : s.dkind = .startup
  · rw [delayDoneEffect_of_startup hk,
      delayDoneEffect_of_startup (s := { s with buf := b, bufDraw := d }) hk]
    exact ⟨b, d, rfl, hb⟩
  · rw [delayDoneEffect_of_sequence hk,
      delayDoneEffect_of_sequence (s := { s with buf := b, bufDraw := d }) hk]
    by_cases hmore : s.dphase.val + 1 < phaseCount s.dkind
    · rw [nextPhase_of_more hmore, nextPhase_of_more (s := { s with buf := b, bufDraw := d }) hmore]
      exact ⟨b, d, rfl, hb⟩
    · have hlast := Nat.le_of_not_lt hmore
      rw [nextPhase_of_last hlast, nextPhase_of_last (s := { s with buf := b, bufDraw := d }) hlast]
      exact ⟨b, d, rfl, hb⟩

/-- RESET forgets every entry. -/
theorem SameButStale.resetEffect (h : SameButStale s t) :
    SameButStale (resetEffect s) (resetEffect t) := by
  obtain ⟨b, d, rfl, -⟩ := h
  exact ⟨[], d + 1, rfl, fun _ _ => rfl⟩

theorem SameButStale.pollEffect (h : SameButStale s t) : SameButStale (pollEffect s) (pollEffect t) := by
  obtain ⟨b, d, rfl, hb⟩ := h
  exact ⟨b, d, rfl, hb⟩

/-- An entry that both states have recorded reads the same in both (R47). -/
theorem readEntry_eq_of_entry_eq {b : Memory s.cfg.tickWidth} {d k : Nat}
    (hsome : (Memory.entry s.buf k).isSome = true) (heq : Memory.entry b k = Memory.entry s.buf k) :
    State.readEntry { s with buf := b, bufDraw := d } k = s.readEntry k := by
  obtain ⟨v, hv⟩ := Option.isSome_iff_exists.mp hsome
  rw [State.readEntry_of_entry hv, State.readEntry_of_entry (heq.trans hv)]

/-- A drain reads recorded entries alone: its guard comes with a full buffer (R80). -/
theorem SameButStale.drainEffect (hinv : Inv s) (hseq : s.seq = .drain) (h : SameButStale s t) :
    SameButStale (drainEffect s) (drainEffect t) := by
  obtain ⟨b, d, rfl, hb⟩ := h
  have hread : State.drainEntries { s with buf := b, bufDraw := d } = s.drainEntries := by
    refine List.map_congr_left fun k hk => ?_
    have hlt : k < s.wp.val := by
      have hwp := hinv.drainFull hseq
      have hrp := s.rp.isLt
      rw [List.mem_range'_1] at hk
      omega
    exact readEntry_eq_of_entry_eq (hinv.recorded k hlt) (hb k hlt)
  rw [drainEffect_eq, drainEffect_eq, hread]
  exact ⟨b, d, rfl, fun _ hi => absurd hi (Nat.not_lt_zero _)⟩

theorem SameButStale.dispatchEffect (h : SameButStale s t) :
    SameButStale (dispatchEffect s) (dispatchEffect t) := by
  obtain ⟨b, d, rfl, hb⟩ := h
  obtain ⟨p, hp⟩ | ⟨k, hk⟩ := (select s.cfg s.cmd).keyPattern_or_sequence
  · rw [dispatchEffect_of_keyPattern hp,
      dispatchEffect_of_keyPattern (s := { s with buf := b, bufDraw := d }) hp]
    exact ⟨b, d, rfl, hb⟩
  · rw [dispatchEffect_of_sequence hk,
      dispatchEffect_of_sequence (s := { s with buf := b, bufDraw := d }) hk]
    exact ⟨b, d, rfl, hb⟩

/-- Every transaction whose guard holds keeps the relation, the invariant given. -/
theorem SameButStale.effectOf (hinv : Inv s) (hen : enabled i s = true) (h : SameButStale s t) :
    SameButStale (effectOf i s) (effectOf i t) := by
  cases i with
  | tick => exact h.tickEffect
  | edge => exact h.edgeEffect
  | delayDone => exact h.delayDoneEffect
  | reset => exact h.resetEffect
  | poll => exact h.pollEffect
  | drain => exact h.drainEffect hinv (beq_iff_eq.mp hen)
  | dispatch => exact h.dispatchEffect

/-- A step that fetches an enabled transaction answers its effect. -/
theorem step_of_fetch (hf : s.fetch = .ok i) (hen : enabled i s = true) :
    step s = .next (effectOf i (s.advance i)) := by
  simp only [step, hf]
  exact exec_of_enabled ((enabled_advance i i s).trans hen)

/-- A step is refused alike in both states. -/
theorem SameButStale.step_refused {r : Refusal} (h : SameButStale s t) (hs : step s = .refused r) :
    step t = .refused r := by
  have hen := h.enabled_eq
  obtain ⟨b, d, rfl, -⟩ := h
  obtain ⟨c, cs, hscript, ⟨hc, rfl⟩ | ⟨i, hc, hdis, rfl⟩⟩ := step_refused_inv hs
  · exact step_of_reserved (s := { s with buf := b, bufDraw := d }) hscript hc
  · rw [step_of_decode (s := { s with buf := b, bufDraw := d }) hscript hc]
    exact exec_of_disabled ((enabled_advance _ _ _).trans ((hen i).trans hdis))

/-- Settles O46: both states fetch the same transaction, enabled in both, and its effect keeps the
relation. -/
theorem staleEntriesAreUnobservable : Obligations.StaleEntriesAreUnobservable := by
  refine fun s t hinv h => ⟨fun s' hstep => ?_, fun r hstep => h.step_refused hstep⟩
  obtain ⟨i, hf, hen, rfl⟩ := step_next_inv hstep
  have hrel := (h.advance i).effectOf (hinv.advance i) hen
  rw [enabled_advance, ← h.enabled_eq i] at hen
  exact ⟨_, step_of_fetch (h.fetch_eq.trans hf) hen, hrel, hrel.trace_out_eq⟩

end Sys2Proof.Machine
end

/-! Proofs of the family other: running a list of transactions (R59). -/

section
namespace Sys2Proof.Machine

variable {s t u : State} {i : Instr} {is js : List Instr}

@[simp] theorem runTxns_nil (s : State) : runTxns [] s = .next s := rfl

/-- A list runs on after its first transaction. -/
theorem runTxns_cons_of_next (h : exec i s = .next t) : runTxns (i :: is) s = runTxns is t := by
  rw [runTxns, h]

/-- The inversion lemma of a run for its first transaction. -/
theorem runTxns_cons_inv (h : runTxns (i :: is) s = .next u) :
    enabled i s = true ∧ runTxns is (effectOf i s) = .next u := by
  cases hen : enabled i s with
  | true =>
    rw [runTxns_cons_of_next (exec_of_enabled hen)] at h
    exact ⟨rfl, h⟩
  | false => rw [runTxns, exec_of_disabled hen] at h; cases h

/-- A list that starts with a disabled transaction is refused there. -/
theorem runTxns_cons_of_disabled (h : enabled i s = false) :
    runTxns (i :: is) s = .refused (.notEnabled s.pos i) := by
  rw [runTxns, exec_of_disabled h]

/-- What stands after a list that runs is run from where the list ends. -/
theorem runTxns_append_of_next (h : runTxns is s = .next t) (js : List Instr) :
    runTxns (is ++ js) s = runTxns js t := by
  induction is generalizing s with
  | nil => cases h; rfl
  | cons i is ih =>
    obtain ⟨hen, htail⟩ := runTxns_cons_inv h
    rw [List.cons_append, runTxns_cons_of_next (exec_of_enabled hen), ih htail]

/-- What every enabled transaction of a list keeps, a run of the list keeps. -/
theorem runTxns_induction {P : State → Prop}
    (hstep : ∀ i ∈ is, ∀ s, P s → enabled i s = true → P (effectOf i s))
    (hs : P s) (h : runTxns is s = .next t) : P t := by
  induction is generalizing s with
  | nil => cases h; exact hs
  | cons i is ih =>
    obtain ⟨hen, htail⟩ := runTxns_cons_inv h
    obtain ⟨hhead, hrest⟩ := List.forall_mem_cons.mp hstep
    exact ih hrest (hhead s hs hen) htail

/-- `n` TICKs run from every state and add `n` to the counter (R62). -/
theorem runTxns_replicate_tick (n : Nat) (s : State) :
    runTxns (List.replicate n .tick) s = .next { s with tick := s.tick + BitVec.ofNat _ n } := by
  induction n generalizing s with
  | zero => rw [List.replicate_zero, runTxns_nil, BitVec.add_zero]
  | succ n ih =>
    have hsum : s.tick + 1 + BitVec.ofNat s.cfg.tickWidth n = s.tick + BitVec.ofNat _ (n + 1) := by
      rw [BitVec.ofNat_add, BitVec.add_assoc, BitVec.add_comm (BitVec.ofNat _ n)]
      rfl
    rw [List.replicate_succ, runTxns_cons_of_next (exec_tick s), ih, ← hsum]
    rfl

end Sys2Proof.Machine
end

/-! Proofs of the family other: the stamps of recorded edges (R43, R44, R118). -/

section
namespace Sys2Proof.Machine

variable {s t : State} {i : Instr}

/-- Settles O12: the edge records the counter as it stands, before or after the tick. -/
theorem tickEdgeOrderDecidesTheStamp : Obligations.TickEdgeOrderDecidesTheStamp := by
  intro s hopen hroom
  have hcap : s.wp.val < Config.cap := hroom
  refine ⟨Memory.write s.buf s.wp.val (s.tick + 1), Memory.write s.buf s.wp.val s.tick,
    ⟨s.wp.val + 1, Nat.succ_lt_succ hroom⟩, rfl, ?_, ?_, State.readEntry_write_same _ _,
    State.readEntry_write_same _ _⟩
  · rw [runTxns_cons_of_next (exec_tick s), runTxns_cons_of_next (exec_edge _),
      edgeEffect_of_open (s := tickEffect s) hopen hcap]
    rfl
  · rw [runTxns_cons_of_next (exec_edge s), runTxns_cons_of_next (exec_tick _),
      edgeEffect_of_open hopen hcap]
    rfl

/-- Settles O11: the edges record the counter before and after the `n` ticks. -/
theorem recordedGapCountsTicks : Obligations.RecordedGapCountsTicks := by
  intro s n hopen hroom
  have hcap : s.wp.val < Config.cap := Nat.lt_of_succ_lt hroom
  have hcap' : s.wp.val + 1 < Config.cap := hroom
  refine ⟨s.tick + BitVec.ofNat _ n,
    Memory.write (Memory.write s.buf s.wp.val s.tick) (s.wp.val + 1) (s.tick + BitVec.ofNat _ n),
    ⟨s.wp.val + 2, Nat.succ_lt_succ hcap'⟩, ?_, rfl, ?_⟩
  · rw [runTxns_cons_of_next (exec_edge s), edgeEffect_of_open hopen hcap,
      runTxns_append_of_next (runTxns_replicate_tick n _), runTxns_cons_of_next (exec_edge _)]
    exact congrArg _ (edgeEffect_of_open (s := { s with
      tick := s.tick + BitVec.ofNat _ n, buf := Memory.write s.buf s.wp.val s.tick,
      wp := ⟨s.wp.val + 1, Nat.succ_lt_succ hcap⟩ }) hopen hcap')
  · have hfirst : Memory.entry (Memory.write (Memory.write s.buf s.wp.val s.tick) (s.wp.val + 1)
        (s.tick + BitVec.ofNat _ n)) s.wp.val = some s.tick := by
      rw [Memory.entry_write_other _ (Nat.ne_of_lt (Nat.lt_succ_self _)), Memory.entry_write_same]
    have hsecond := Memory.entry_write_same (s.wp.val + 1) (s.tick + BitVec.ofNat _ n)
      (Memory.write s.buf s.wp.val s.tick)
    rw [State.readEntry_of_entry (i := s.wp.val) hfirst,
      State.readEntry_of_entry (i := s.wp.val + 1) hsecond]
    exact duration_add_ofNat s.tick n

/-- `t` has the full buffer of `s`: `WP = 100`, and every entry reads as it did. Entries are compared by
their numbers, since only a proof makes the widths of the two states equal. -/
def HasFullBufferOf (s t : State) : Prop :=
  t.wp.val = 100 ∧ ∀ k, (t.readEntry k).toNat = (s.readEntry k).toNat

/-- No transaction but DRAIN and RESET touches a full buffer (R43, R129). -/
theorem HasFullBufferOf.effectOf (h : HasFullBufferOf s t) (hdrain : i ≠ .drain)
    (hreset : i ≠ .reset) : HasFullBufferOf s (effectOf i t) := by
  obtain ⟨hfull, hread⟩ := h
  cases i with
  | tick => exact ⟨hfull, hread⟩
  | edge =>
    show HasFullBufferOf s (edgeEffect t)
    rw [edgeEffect_of_lost (.inr hfull)]
    exact ⟨hfull, hread⟩
  | delayDone =>
    show HasFullBufferOf s (delayDoneEffect t)
    obtain ⟨_, heq⟩ | ⟨_, _, heq⟩ | ⟨_, _, heq⟩ := delayDoneEffect_cases t <;> rw [heq] <;>
      exact ⟨hfull, hread⟩
  | reset => exact absurd rfl hreset
  | poll => exact ⟨hfull, hread⟩
  | drain => exact absurd rfl hdrain
  | dispatch =>
    show HasFullBufferOf s (dispatchEffect t)
    obtain ⟨p, heq⟩ | ⟨_, heq⟩ | ⟨_, heq⟩ := dispatchEffect_cases t <;> rw [heq] <;>
      exact ⟨hfull, hread⟩

/-- Settles O10: every transaction of the list keeps the full buffer. -/
theorem fullBufferKeepsItsEntriesUntilDrain : Obligations.FullBufferKeepsItsEntriesUntilDrain := by
  intro is s t hfull hdrain hreset hrun
  refine runTxns_induction (P := HasFullBufferOf s) (fun i hi u hu _ => hu.effectOf ?_ ?_)
    ⟨hfull, fun _ => rfl⟩ hrun
  · rintro rfl
    exact hdrain hi
  · rintro rfl
    exact hreset hi

end Sys2Proof.Machine
end

/-! Proofs of the family other: the dispatcher's branches and patterns (R39, R57, R88 to R97). -/

section
namespace Sys2Proof.Machine

variable {s t : State}

/-- Settles O24: the comparator chain, branch by branch; 0 matches no code, since R8 excludes zero codes. -/
theorem selectIsAPriorityChain : Obligations.SelectIsAPriorityChain := by
  intro c v
  obtain ⟨hf, hr, hp, hs⟩ := c.codes_ne_zero
  refine ⟨fun h => if_pos h, fun h₁ h => ?_, fun h₁ h₂ h => ?_, fun h₁ h₂ h₃ h => ?_,
    fun h₁ h₂ h₃ h₄ => ?_, ?_⟩
  · rw [select, if_neg h₁, if_pos h]
  · rw [select, if_neg h₁, if_neg h₂, if_pos h]
  · rw [select, if_neg h₁, if_neg h₂, if_neg h₃, if_pos h]
  · rw [select, if_neg h₁, if_neg h₂, if_neg h₃, if_neg h₄]
  · rw [select, if_neg hf.symm, if_neg hr.symm, if_neg hp.symm, if_neg hs.symm]

/-- DISPATCH of a key branch: its port write, and back to POLL (R90 to R92). -/
theorem exec_dispatch_of_keyPattern {p : Port} (hseq : s.seq = .dispatch)
    (h : (select s.cfg s.cmd).keyPattern = some p) :
    exec .dispatch s = .next { s with out := p, seq := .poll, trace := s.trace ++ [.portWrite p] } := by
  rw [exec_dispatch hseq, dispatchEffect_of_keyPattern h, dispatchOnce_eq]

/-- DISPATCH of a blocking branch: the first phase of its sequence (R93, R95). -/
theorem exec_dispatch_of_sequence {k : DelayKind} (hseq : s.seq = .dispatch)
    (h : (select s.cfg s.cmd).sequence = some k) :
    exec .dispatch s = .next { s with
      dkind := k, dphase := ⟨0, by decide⟩, out := phasePattern k 0, dreqN := phaseHold k, seq := .wait,
      trace := s.trace ++ [.portWrite (phasePattern k 0), .delayRequest (phaseHold k)] } := by
  rw [exec_dispatch hseq, dispatchEffect_of_sequence h, dispatchBlocking_eq]

/-- Settles O25: the three key patterns have these values. -/
theorem keyCommandsWriteTheirPattern : Obligations.KeyCommandsWriteTheirPattern := fun _ hseq =>
  ⟨fun h => exec_dispatch_of_keyPattern hseq (h ▸ rfl),
    fun h => exec_dispatch_of_keyPattern hseq (h ▸ rfl),
    fun h => exec_dispatch_of_keyPattern hseq (h ▸ rfl)⟩

/-- Settles O27: IDLE starts the idle blink at phase 0. -/
theorem unknownCommandStartsTheIdleBlink : Obligations.UnknownCommandStartsTheIdleBlink := by
  intro s p hp hseq h
  rw [Fin.ext hp (b := ⟨0, by decide⟩), exec_dispatch_of_sequence (k := .idle) hseq (h ▸ rfl)]
  rfl

/-- Settles O28: STOP starts the STOP sequence at phase 0. -/
theorem stopCommandStartsTheStopSequence : Obligations.StopCommandStartsTheStopSequence := by
  intro s p hp hseq h
  rw [Fin.ext hp (b := ⟨0, by decide⟩), exec_dispatch_of_sequence (k := .stop) hseq (h ▸ rfl)]
  rfl

/-- One bit of the port drives one line (R56). -/
theorem lineActive_oneBit (l m : Line) : lineActive ((1 : Port) <<< m.bit) l = true ↔ l = m := by
  cases l <;> cases m <;> decide

/-- A pattern drives exactly the lines it lists, every other line inactive (R39, R89). -/
theorem lineActive_patternOf (ls : List Line) (l : Line) : lineActive (patternOf ls) l = true ↔ l ∈ ls := by
  induction ls with
  | nil => simp [patternOf, lineActive]
  | cons m ls ih =>
    have hor : lineActive (patternOf (m :: ls)) l =
        (lineActive (patternOf ls) l || lineActive ((1 : Port) <<< m.bit) l) := BitVec.getLsbD_or
    rw [hor, Bool.or_eq_true, ih, lineActive_oneBit, List.mem_cons, or_comm]

/-- After DISPATCH of a key branch `OUT` is its pattern. -/
theorem out_of_exec_dispatch {p : Port} (h : exec .dispatch s = .next t)
    (hkey : (select s.cfg s.cmd).keyPattern = some p) : t.out = p := by
  obtain ⟨-, rfl⟩ := exec_next_inv h
  exact congrArg State.out (dispatchEffect_of_keyPattern hkey)

/-- Settles O26: each key pattern lists the lines that the source names. -/
theorem keyCommandsDriveExactlyTheNamedLines : Obligations.KeyCommandsDriveExactlyTheNamedLines := by
  refine fun s t h l => ⟨fun hsel => ?_, fun hsel => ?_, fun hsel => ?_⟩
  · rw [out_of_exec_dispatch (p := pForward) h (hsel ▸ rfl), pForward, lineActive_patternOf]
    simp
  · rw [out_of_exec_dispatch (p := pRewind) h (hsel ▸ rfl), pRewind, lineActive_patternOf]
    simp
  · rw [out_of_exec_dispatch (p := pPlay) h (hsel ▸ rfl), pPlay, lineActive_patternOf]
    simp

/-- A DISPATCH that returns to POLL took a key branch. -/
theorem keyPattern_of_dispatch_to_poll (h : exec .dispatch s = .next t) (hpoll : t.seq = .poll) :
    ∃ p, (select s.cfg s.cmd).keyPattern = some p ∧ t = s.dispatchOnce p := by
  obtain ⟨-, rfl⟩ := exec_next_inv h
  obtain ⟨p, hp⟩ | ⟨k, hk⟩ := (select s.cfg s.cmd).keyPattern_or_sequence
  · exact ⟨p, hp, dispatchEffect_of_keyPattern hp⟩
  · rw [effectOf, dispatchEffect_of_sequence hk] at hpoll
    cases hpoll

/-- Settles O31: nothing that the branch depends on has changed, so the same key branch is taken again. -/
theorem repeatedDispatchIsIdempotent : Obligations.RepeatedDispatchIsIdempotent := by
  intro s t h hpoll hroom
  obtain ⟨p, hp, rfl⟩ := keyPattern_of_dispatch_to_poll h hpoll
  refine ⟨.portWrite p, ?_, rfl⟩
  have hagain := exec_dispatch_of_keyPattern (s := { s.dispatchOnce p with seq := .dispatch }) rfl hp
  rw [runTxns_cons_of_next (exec_poll hpoll), pollEffect_eq,
    if_neg (show ¬(s.dispatchOnce p).wp.val = 100 from hroom.ne), runTxns_cons_of_next hagain]
  rfl

end Sys2Proof.Machine
end

/-! Proofs of the family other: the phases of the blocking sequences (R93 to R99, R105). -/

section
namespace Sys2Proof.Machine

variable {s t u : State} {k : DelayKind} {m n : Nat} {is : List Instr}

/-- The boundary events of phase `p` of a sequence (R94, R96, R105). -/
def phaseEvents (k : DelayKind) (p : Nat) : List Event :=
  [.portWrite (phasePattern k p), .delayRequest (phaseHold k)]

/-- Two events a phase: the first `2 * m` events are those of the first `m` phases. -/
theorem take_flatMap_phaseEvents (k : DelayKind) (m n : Nat) :
    ((List.range n).flatMap (phaseEvents k)).take (2 * m) =
      (List.range (min m n)).flatMap (phaseEvents k) := by
  have hlen : ∀ n, ((List.range n).flatMap (phaseEvents k)).length = 2 * n := fun n => by
    simp [List.length_flatMap, phaseEvents, Nat.mul_comm]
  induction n with
  | zero => rw [Nat.min_zero, List.range_zero, List.flatMap_nil, List.take_nil]
  | succ n ih =>
    obtain hgt | hle := Nat.lt_or_ge n m
    · rw [Nat.min_eq_right hgt, List.take_of_length_le (by rw [hlen]; omega)]
    · rw [List.range_succ, List.flatMap_append,
        List.take_append_of_le_length (by rw [hlen]; omega), ih, Nat.min_eq_left hle,
        Nat.min_eq_left (Nat.le_succ_of_le hle)]

/-- `t` lies in the sequence `k` that DISPATCH started at `s`, after `m` of its delays: the events, the
registers and the return to POLL that R93 to R98 give for `m`. -/
structure InSequence (s : State) (k : DelayKind) (m : Nat) (t : State) : Prop where
  delays_le : m ≤ phaseCount k
  trace_eq : t.trace = s.trace ++ (List.range (min (m + 1) (phaseCount k))).flatMap (phaseEvents k)
  seq_eq : t.seq = if m = phaseCount k then .poll else .wait
  dkind_eq : t.dkind = k
  dphase_eq : t.dphase.val = min m (phaseCount k - 1)
  out_eq : t.out = phasePattern k (min m (phaseCount k - 1))
  dreqN_eq : t.dreqN = phaseHold k
  cmd_eq : t.cmd = s.cmd

/-- A sequence starts with phase 0 (R93, R95). -/
theorem inSequence_dispatchBlocking (hk : k ≠ .startup) : InSequence s k 0 (s.dispatchBlocking k) := by
  have hpos := phaseCount_pos hk
  rw [dispatchBlocking_eq]
  refine ⟨Nat.zero_le _, ?_, (if_neg hpos.ne).symm, rfl, (Nat.zero_min _).symm, ?_, rfl, rfl⟩
  · rw [Nat.min_eq_left hpos]
    rfl
  · rw [Nat.zero_min]

theorem InSequence.tickEffect (h : InSequence s k m t) : InSequence s k m (tickEffect t) :=
  ⟨h.delays_le, h.trace_eq, h.seq_eq, h.dkind_eq, h.dphase_eq, h.out_eq, h.dreqN_eq, h.cmd_eq⟩

theorem InSequence.edgeEffect (h : InSequence s k m t) : InSequence s k m (edgeEffect t) := by
  obtain heq | ⟨_, _, heq⟩ := edgeEffect_cases t <;> rw [heq]
  · exact h
  · exact ⟨h.delays_le, h.trace_eq, h.seq_eq, h.dkind_eq, h.dphase_eq, h.out_eq, h.dreqN_eq, h.cmd_eq⟩

/-- A delay is outstanding as long as not all phases have been held (R98). -/
theorem InSequence.delays_lt_of_wait (h : InSequence s k m t) (hseq : t.seq = .wait) :
    m < phaseCount k := by
  refine Nat.lt_of_le_of_ne h.delays_le fun heq => ?_
  rw [h.seq_eq, if_pos heq] at hseq
  cases hseq

/-- The end of a delay is one delay more: the next phase, or after the last one the return (R105). -/
theorem InSequence.delayDoneEffect (h : InSequence s k m t) (hk : k ≠ .startup) (hseq : t.seq = .wait) :
    InSequence s k (m + 1) (delayDoneEffect t) := by
  have hlt := h.delays_lt_of_wait hseq
  have hphase : t.dphase.val = m := h.dphase_eq.trans (by omega)
  have hkind := h.dkind_eq
  rw [delayDoneEffect_of_sequence (hkind ▸ hk)]
  obtain hmore | hlast := Nat.lt_or_ge (m + 1) (phaseCount k)
  · rw [nextPhase_of_more (by rwa [hphase, hkind])]
    refine ⟨hlt, ?_, hseq.trans (if_neg hmore.ne).symm, hkind, ?_, ?_, congrArg phaseHold hkind, h.cmd_eq⟩
    · dsimp only
      rw [h.trace_eq, hphase, hkind, Nat.min_eq_left (Nat.le_of_lt hmore), Nat.min_eq_left hmore,
        List.range_succ (n := m + 1), List.flatMap_append, List.append_assoc]
      rfl
    · dsimp only
      omega
    · dsimp only
      rw [hphase, hkind, Nat.min_eq_left (by omega)]
  · have hend : m + 1 = phaseCount k := by omega
    have hmin : min (m + 1) (phaseCount k - 1) = min m (phaseCount k - 1) := by omega
    rw [nextPhase_of_last (by rwa [hphase, hkind])]
    refine ⟨hlt, ?_, (if_pos hend).symm, hkind, hmin ▸ h.dphase_eq, hmin ▸ h.out_eq, h.dreqN_eq,
      h.cmd_eq⟩
    rw [Nat.min_eq_right (by omega), h.trace_eq, Nat.min_eq_right hlast]

/-- Ticks, edges and the ends of delays lead through the sequence, one phase for each delay (R98, R99). -/
theorem InSequence.runTxns (hk : k ≠ .startup) (his : ∀ i ∈ is, i = .tick ∨ i = .edge ∨ i = .delayDone)
    (h : InSequence s k m t) (hrun : runTxns is t = .next u) :
    InSequence s k (m + is.count .delayDone) u := by
  induction is generalizing m t with
  | nil => cases hrun; exact h
  | cons i is ih =>
    obtain ⟨hen, htail⟩ := runTxns_cons_inv hrun
    obtain ⟨hhead, hrest⟩ := List.forall_mem_cons.mp his
    obtain rfl | rfl | rfl := hhead
    · rw [List.count_cons_of_ne (by decide)]
      exact ih hrest h.tickEffect htail
    · rw [List.count_cons_of_ne (by decide)]
      exact ih hrest h.edgeEffect htail
    · rw [List.count_cons_self, Nat.add_comm _ 1, ← Nat.add_assoc]
      exact ih hrest (h.delayDoneEffect hk (beq_iff_eq.mp hen)) htail

/-- A run that starts with the DISPATCH of a blocking branch lies in the branch's sequence. -/
theorem inSequence_of_dispatch_run (hsel : (select s.cfg s.cmd).sequence = some k)
    (his : ∀ i ∈ is, i = .tick ∨ i = .edge ∨ i = .delayDone)
    (hrun : runTxns (.dispatch :: is) s = .next t) : InSequence s k (is.count .delayDone) t := by
  have hk := Branch.ne_startup_of_sequence hsel
  obtain ⟨-, htail⟩ := runTxns_cons_inv hrun
  rw [effectOf, dispatchEffect_of_sequence hsel] at htail
  have h := (inSequence_dispatchBlocking hk).runTxns hk his htail
  rwa [Nat.zero_add] at h

/-- The observation of a sequence as the first events of all its phases. -/
theorem InSequence.trace_eq_take (h : InSequence s k m t) :
    t.trace = s.trace ++ ((List.range (phaseCount k)).flatMap (phaseEvents k)).take (2 * (m + 1)) := by
  rw [take_flatMap_phaseEvents]
  exact h.trace_eq

/-- Settles O29: the run lies in the STOP sequence, whose 8 phases alternate two patterns. -/
theorem stopSequenceRunsToItsEndUnderInterleaving :
    Obligations.StopSequenceRunsToItsEndUnderInterleaving := by
  intro s t is _ hsel his hrun
  have h := inSequence_of_dispatch_run (k := .stop) (hsel ▸ rfl) his hrun
  exact ⟨h.delays_le, h.trace_eq_take, h.seq_eq, h.dkind_eq, h.dphase_eq, h.out_eq, h.dreqN_eq, h.cmd_eq⟩

/-- Settles O30: the run lies in the idle blink, which has 2 phases. -/
theorem idleBlinkRunsToItsEndUnderInterleaving :
    Obligations.IdleBlinkRunsToItsEndUnderInterleaving := by
  intro s t is _ hsel his hrun k
  have h := inSequence_of_dispatch_run (k := .idle) (hsel ▸ rfl) his hrun
  have hout : t.out = if k = 0 then 0x6 else 0x2 := by
    have hphase : min k 1 = 0 ↔ k = 0 := by omega
    exact h.out_eq.trans (if_congr hphase rfl rfl)
  exact ⟨h.delays_le, h.trace_eq_take, h.seq_eq, h.dkind_eq, h.dphase_eq, hout, h.dreqN_eq, h.cmd_eq⟩

end Sys2Proof.Machine
end

/-! Proofs of the family other: the sequencer (R100 to R106). -/

section
namespace Sys2Proof.Machine

variable {s t u : State} {k : DelayKind} {n : Nat} {is : List Instr}

/-- Settles O33: in the startup delay DELAY_DONE is `StartupDone` (R103). -/
theorem startupEndOpensCapture : Obligations.StartupEndOpensCapture := by
  intro s hseq hk
  rw [exec_delayDone hseq, delayDoneEffect_of_startup hk]

/-- How many phases a blocking sequence has, and how long each is held (R94, R96). -/
theorem phaseCount_phaseHold_eq (hk : k ≠ .startup) :
    phaseCount k = (if k = .stop then 8 else 2) ∧ phaseHold k = if k = .stop then 50 else 400 := by
  cases k with
  | startup => exact absurd rfl hk
  | stop | idle => exact ⟨rfl, rfl⟩

/-- After phase 0 both sequences drive the same patterns by parity (R94, R96). -/
theorem phasePattern_of_pos (hpos : 0 < n) (hn : n < phaseCount k) :
    phasePattern k n = if n % 2 = 1 then 0x2 else 0xE := by
  cases k with
  | startup => exact absurd hn (Nat.not_lt_zero _)
  | stop =>
    have hodd : n % 2 = 1 ↔ ¬n % 2 = 0 := by omega
    rw [if_congr hodd rfl rfl, ite_not]
    rfl
  | idle =>
    have hone : n = 1 := Nat.le_antisymm (Nat.le_of_lt_succ hn) hpos
    rw [hone]
    rfl

/-- Settles O34: DELAY_DONE is `NextPhase` in a blocking sequence (R105). -/
theorem delayDoneStepsThePhases : Obligations.DelayDoneStepsThePhases := by
  intro s hseq hk
  obtain ⟨hcount, hhold⟩ := phaseCount_phaseHold_eq hk
  dsimp only
  rw [← hcount, ← hhold, exec_delayDone hseq, delayDoneEffect_of_sequence hk]
  refine ⟨?_, fun hlast => congrArg _ (nextPhase_of_last hlast)⟩
  rintro ⟨q, hlt⟩ hq hmore
  obtain rfl : q = s.dphase.val + 1 := hq
  rw [nextPhase_of_more hmore, phasePattern_of_pos (Nat.succ_pos _) hmore]

/-- Which phases the kinds have, the startup delay none (R105). -/
theorem lt_phaseCount_iff : n < phaseCount k ↔ (k = .stop ∧ n < 8) ∨ (k = .idle ∧ n < 2) := by
  cases k <;> simp [phaseCount, Config.stopPairs]

/-- DELAY_DONE keeps waiting exactly while phases remain, and returns to POLL otherwise (R102). -/
theorem delayDoneEffect_seq (hseq : s.seq = .wait) :
    (delayDoneEffect s).seq =
      if s.dphase.val + 1 < phaseCount s.dkind then .wait else .poll := by
  obtain ⟨hk, heq⟩ | ⟨_, hmore, heq⟩ | ⟨_, hlast, heq⟩ := delayDoneEffect_cases s <;> rw [heq]
  · rw [if_neg (by rw [hk]; exact Nat.not_lt_zero _)]
  · rw [if_pos hmore]
    exact hseq
  · rw [if_neg hlast.not_gt]

/-- DELAY_DONE leaves the kind of the sequence (R26). -/
theorem delayDoneEffect_dkind (s : State) : (delayDoneEffect s).dkind = s.dkind := by
  obtain ⟨_, heq⟩ | ⟨_, _, heq⟩ | ⟨_, _, heq⟩ := delayDoneEffect_cases s <;> rw [heq]

/-- DISPATCH waits after a blocking branch and returns to POLL after a key branch (R87). -/
theorem dispatchEffect_seq (s : State) :
    (dispatchEffect s).seq = if (select s.cfg s.cmd).sequence.isSome then .wait else .poll := by
  unfold dispatchEffect
  cases select s.cfg s.cmd <;> rfl

/-- EDGE leaves all that the sequencer holds, and the position of the script. -/
theorem edgeEffect_sequencer (s : State) :
    (edgeEffect s).seq = s.seq ∧ (edgeEffect s).dkind = s.dkind ∧ (edgeEffect s).dphase = s.dphase ∧
      (edgeEffect s).pos = s.pos := by
  obtain heq | ⟨_, _, heq⟩ := edgeEffect_cases s <;> rw [heq] <;> exact ⟨rfl, rfl, rfl, rfl⟩

/-- Settles O35: what each effect makes of `SEQ`, transaction by transaction. -/
theorem sequencerFollowsTheTransitionTable : Obligations.SequencerFollowsTheTransitionTable := by
  intro i s t h
  obtain ⟨hen, rfl⟩ := exec_next_inv h
  cases i with
  | tick => exact ⟨rfl, rfl, rfl⟩
  | edge =>
    obtain ⟨hseq, hkind, hphase, -⟩ := edgeEffect_sequencer s
    exact ⟨hseq, hkind, hphase⟩
  | delayDone =>
    have hseq : s.seq = .wait := beq_iff_eq.mp hen
    refine ⟨hseq, delayDoneEffect_dkind s, ?_, ?_⟩ <;>
      rw [effectOf, delayDoneEffect_seq hseq]
    · rw [← lt_phaseCount_iff]
      split_ifs with hmore <;> simp [hmore]
    · split_ifs with hmore <;> simp
  | reset => exact ⟨rfl, rfl, rfl⟩
  | poll => exact ⟨beq_iff_eq.mp hen, congrArg State.seq (pollEffect_eq s)⟩
  | drain => exact ⟨beq_iff_eq.mp hen, rfl⟩
  | dispatch =>
    refine ⟨beq_iff_eq.mp hen, (dispatchEffect_seq s).trans ?_⟩
    cases select s.cfg s.cmd <;> rfl

/-- Ticks and edges run from every state and leave the sequencer where it stands (R49, R100). -/
theorem runTxns_tick_edge (his : ∀ i ∈ is, i = .tick ∨ i = .edge) (s : State) :
    ∃ t, runTxns is s = .next t ∧ t.seq = s.seq ∧ t.pos = s.pos := by
  induction is generalizing s with
  | nil => exact ⟨s, rfl, rfl, rfl⟩
  | cons i is ih =>
    obtain ⟨hhead, hrest⟩ := List.forall_mem_cons.mp his
    obtain rfl | rfl := hhead
    · rw [runTxns_cons_of_next (exec_tick s)]
      exact ih hrest (tickEffect s)
    · obtain ⟨hseq, -, -, hpos⟩ := edgeEffect_sequencer s
      rw [runTxns_cons_of_next (exec_edge s), ← hseq, ← hpos]
      exact ih hrest (edgeEffect s)

/-- Settles O36: a full poll leaves `SEQ = DRAIN`, which ticks and edges keep. -/
theorem fullPollDrainsBeforeDispatch : Obligations.FullPollDrainsBeforeDispatch := by
  intro s is hseq hfull his
  have hpolled : (pollEffect s).seq = .drain := by
    rw [pollEffect_eq]
    exact if_pos hfull
  obtain ⟨u, hrun, huseq, hupos⟩ := runTxns_tick_edge his (pollEffect s)
  have hdrain : u.seq = .drain := huseq.trans hpolled
  have hpos : u.pos = s.pos := hupos
  rw [runTxns_cons_of_next (exec_poll hseq), runTxns_append_of_next hrun,
    runTxns_cons_of_next (exec_poll hseq), runTxns_append_of_next hrun]
  refine ⟨?_, drainEffect u, runTxns_cons_of_next (exec_drain hdrain), rfl, rfl, rfl⟩
  rw [runTxns_cons_of_disabled (beq_eq_false_iff_ne.mpr (by simp [hdrain])), hpos]

end Sys2Proof.Machine
end

/-! Proofs of the family other: one iteration of the loop, and its return in every fair run (R60, R107). -/

section
namespace Sys2Proof.Machine

variable {s t u : State} {i : Instr}

theorem delaysWhileWaiting_of_ne_wait (h : s.seq ≠ .wait) (fuel : Nat) :
    delaysWhileWaiting fuel s = [] := by
  cases fuel with
  | zero => rfl
  | succ k => exact if_neg h

theorem delaysWhileWaiting_succ_of_wait (h : s.seq = .wait) (fuel : Nat) :
    delaysWhileWaiting (fuel + 1) s = .delayDone :: delaysWhileWaiting fuel (delayDoneEffect s) :=
  if_pos h

/-- DELAY_DONE leaves what the next dispatch will select. -/
theorem select_delayDoneEffect (s : State) :
    select (delayDoneEffect s).cfg (delayDoneEffect s).cmd = select s.cfg s.cmd := by
  obtain ⟨_, heq⟩ | ⟨_, _, heq⟩ | ⟨_, _, heq⟩ := delayDoneEffect_cases s <;> rw [heq]

/-- The delays of `is` run from `s` to a POLL that will select the same branch. -/
def ReturnsToPoll (s : State) (is : List Instr) : Prop :=
  ∃ t, runTxns is s = .next t ∧ t.seq = .poll ∧ select t.cfg t.cmd = select s.cfg s.cmd

/-- From inside a blocking sequence the delays of its remaining phases lead to POLL (R105). -/
theorem delaysWhileWaiting_returnsToPoll {fuel : Nat} (hseq : s.seq = .wait) (hk : s.dkind ≠ .startup)
    (hphase : s.dphase.val < phaseCount s.dkind) (hfuel : phaseCount s.dkind ≤ s.dphase.val + fuel) :
    ReturnsToPoll s (delaysWhileWaiting fuel s) ∧
      (delaysWhileWaiting fuel s).length = phaseCount s.dkind - s.dphase.val := by
  induction fuel generalizing s with
  | zero => omega
  | succ fuel ih =>
    have hsel := select_delayDoneEffect s
    rw [delaysWhileWaiting_succ_of_wait hseq, ReturnsToPoll, runTxns_cons_of_next (exec_delayDone hseq),
      List.length_cons, ← hsel]
    obtain ⟨hk', _⟩ | ⟨_, hmore, heq⟩ | ⟨_, hlast, heq⟩ := delayDoneEffect_cases s
    · exact absurd hk' hk
    · rw [heq]
      obtain ⟨hret, hlen⟩ := ih (s := { s with
        dphase := ⟨s.dphase.val + 1, Nat.lt_of_lt_of_le hmore (phaseCount_le _)⟩,
        out := phasePattern s.dkind (s.dphase.val + 1), dreqN := phaseHold s.dkind,
        trace := s.trace ++ [.portWrite (phasePattern s.dkind (s.dphase.val + 1)),
                             .delayRequest (phaseHold s.dkind)] })
        hseq hk hmore (by dsimp only; omega)
      refine ⟨hret, ?_⟩
      dsimp only at hlen
      omega
    · rw [heq, delaysWhileWaiting_of_ne_wait (by simp)]
      refine ⟨⟨_, rfl, rfl, rfl⟩, ?_⟩
      rw [List.length_nil]
      omega

/-- How many delays a branch takes: one for each phase of its sequence (R60). -/
def Branch.delays (b : Branch) : Nat := b.sequence.elim 0 phaseCount

/-- After DISPATCH the delays of the branch lead back to POLL (R60). -/
theorem dispatch_returnsToPoll (s : State) :
    ReturnsToPoll (dispatchEffect s) (delaysWhileWaiting (2 * Config.stopPairs) (dispatchEffect s)) ∧
      (delaysWhileWaiting (2 * Config.stopPairs) (dispatchEffect s)).length =
        (select s.cfg s.cmd).delays := by
  obtain ⟨p, hp⟩ | ⟨k, hk⟩ := (select s.cfg s.cmd).keyPattern_or_sequence
  · rw [dispatchEffect_of_keyPattern hp, delaysWhileWaiting_of_ne_wait (by simp), Branch.delays,
      Branch.sequence_eq_none hp]
    exact ⟨⟨_, rfl, rfl, rfl⟩, rfl⟩
  · have hne := Branch.ne_startup_of_sequence hk
    rw [dispatchEffect_of_sequence hk, Branch.delays, hk]
    exact delaysWhileWaiting_returnsToPoll rfl hne (phaseCount_pos hne)
      ((phaseCount_le k).trans (Nat.le_add_left _ _))

/-- DISPATCH leaves what it selected by. -/
theorem select_dispatchEffect (s : State) :
    select (dispatchEffect s).cfg (dispatchEffect s).cmd = select s.cfg s.cmd := by
  obtain ⟨_, heq⟩ | ⟨_, heq⟩ | ⟨_, heq⟩ := dispatchEffect_cases s <;> rw [heq] <;> rfl

/-- DISPATCH and its delays form a run back to POLL, whose length the branch selected decides (R60). -/
theorem dispatch_run_returnsToPoll (hseq : s.seq = .dispatch) :
    ∃ is t, is = .dispatch :: delaysWhileWaiting (2 * Config.stopPairs) (dispatchEffect s) ∧
      runTxns is s = .next t ∧ t.seq = .poll ∧ is.length = 1 + (select t.cfg t.cmd).delays := by
  obtain ⟨⟨t, hrun, hpoll, hsel⟩, hlen⟩ := dispatch_returnsToPoll s
  refine ⟨_, t, rfl, (runTxns_cons_of_next (exec_dispatch hseq)).trans hrun, hpoll, ?_⟩
  rw [List.length_cons, hlen, hsel, select_dispatchEffect, Nat.add_comm]

/-- ITER where the poll finds the buffer full: the drain comes first (R60, R106). -/
theorem iterTxns_of_full (hseq : s.seq = .poll) (hpolled : (pollEffect s).seq = .drain) :
    iterTxns s = some (.poll :: .drain :: .dispatch ::
      delaysWhileWaiting (2 * Config.stopPairs) (dispatchEffect (drainEffect (pollEffect s)))) := by
  rw [iterTxns, if_pos hseq]
  dsimp only
  rw [if_pos hpolled, if_pos hpolled]
  rfl

/-- ITER where the poll finds room: DISPATCH follows at once (R60). -/
theorem iterTxns_of_room (hseq : s.seq = .poll) (hpolled : (pollEffect s).seq ≠ .drain) :
    iterTxns s = some (.poll :: .dispatch ::
      delaysWhileWaiting (2 * Config.stopPairs) (dispatchEffect (pollEffect s))) := by
  rw [iterTxns, if_pos hseq]
  dsimp only
  rw [if_neg hpolled, if_neg hpolled]
  rfl

/-- Settles O37: POLL, the drain of a full buffer, and the run of DISPATCH back to POLL. -/
theorem iterationReturnsToPollWithItsLength : Obligations.IterationReturnsToPollWithItsLength := by
  intro s hseq
  have hpolled := congrArg State.seq (pollEffect_eq s)
  by_cases hfull : s.wp.val = 100
  · have hdrain : (pollEffect s).seq = .drain := hpolled.trans (if_pos hfull)
    obtain ⟨is, t, rfl, hrun, hpoll, hlen⟩ :=
      dispatch_run_returnsToPoll (s := drainEffect (pollEffect s)) rfl
    refine ⟨_, t, iterTxns_of_full hseq hdrain, ?_, hpoll, ?_⟩
    · rw [runTxns_cons_of_next (exec_poll hseq), runTxns_cons_of_next (exec_drain hdrain), hrun]
    · rw [List.length_cons, List.length_cons, hlen, if_pos hfull]
      cases select t.cfg t.cmd <;> rfl
  · have hdispatch : (pollEffect s).seq = .dispatch := hpolled.trans (if_neg hfull)
    obtain ⟨is, t, rfl, hrun, hpoll, hlen⟩ := dispatch_run_returnsToPoll hdispatch
    refine ⟨_, t, iterTxns_of_room hseq (by simp [hdispatch]), ?_, hpoll, ?_⟩
    · rw [runTxns_cons_of_next (exec_poll hseq), hrun]
    · rw [List.length_cons, hlen, if_neg hfull]
      cases select t.cfg t.cmd <;> rfl

/-- How far the sequencer still is from POLL: DRAIN, then DISPATCH, then the phases left (R100, R105). -/
def loopRank (s : State) : Nat :=
  match s.seq with
  | .poll => 0
  | .wait => 1 + (phaseCount s.dkind - s.dphase.val)
  | .dispatch => 10
  | .drain => 11

theorem loopRank_of_poll (h : s.seq = .poll) : loopRank s = 0 := by
  rw [loopRank, h]

theorem loopRank_of_wait (h : s.seq = .wait) :
    loopRank s = 1 + (phaseCount s.dkind - s.dphase.val) := by
  rw [loopRank, h]

theorem loopRank_of_dispatch (h : s.seq = .dispatch) : loopRank s = 10 := by
  rw [loopRank, h]

theorem loopRank_of_drain (h : s.seq = .drain) : loopRank s = 11 := by
  rw [loopRank, h]

/-- The transactions that carry the loop forward (R107). -/
def Progresses (i : Instr) : Prop := i.agent = .sequencer ∨ i = .delayDone

theorem loopRank_delayDoneEffect_lt (hseq : s.seq = .wait) :
    loopRank (delayDoneEffect s) < loopRank s := by
  rw [loopRank_of_wait hseq]
  obtain ⟨_, heq⟩ | ⟨_, hmore, heq⟩ | ⟨_, _, heq⟩ := delayDoneEffect_cases s <;> rw [heq]
  · rw [loopRank_of_poll rfl]
    exact Nat.lt_add_right _ Nat.one_pos
  · refine lt_of_eq_of_lt (loopRank_of_wait hseq) ?_
    dsimp only
    omega
  · rw [loopRank_of_poll rfl]
    exact Nat.lt_add_right _ Nat.one_pos

theorem loopRank_dispatchEffect_lt (hseq : s.seq = .dispatch) :
    loopRank (dispatchEffect s) < loopRank s := by
  rw [loopRank_of_dispatch hseq]
  obtain ⟨p, hp⟩ | ⟨k, hk⟩ := (select s.cfg s.cmd).keyPattern_or_sequence
  · rw [dispatchEffect_of_keyPattern hp, loopRank_of_poll rfl]
    decide
  · have hle : phaseCount k ≤ 8 := phaseCount_le k
    rw [dispatchEffect_of_sequence hk, loopRank_of_wait rfl]
    show 1 + (phaseCount k - 0) < 10
    omega

/-- Away from POLL a transaction that carries the loop forward brings it nearer to POLL. -/
theorem loopRank_effectOf_lt (hen : enabled i s = true) (hpoll : s.seq ≠ .poll)
    (hi : Progresses i) : loopRank (effectOf i s) < loopRank s := by
  cases i with
  | tick | edge | reset => exact absurd hi (by simp [Progresses, Instr.agent])
  | delayDone => exact loopRank_delayDoneEffect_lt (beq_iff_eq.mp hen)
  | poll => exact absurd (beq_iff_eq.mp hen) hpoll
  | drain =>
    rw [loopRank_of_drain (beq_iff_eq.mp hen), effectOf, loopRank_of_dispatch rfl]
    decide
  | dispatch => exact loopRank_dispatchEffect_lt (beq_iff_eq.mp hen)

/-- TICK and EDGE leave the distance to POLL. -/
theorem loopRank_effectOf_of_not_progresses (hi : ¬Progresses i) (hreset : i ≠ .reset) :
    loopRank (effectOf i s) = loopRank s := by
  cases i with
  | tick => rfl
  | edge =>
    obtain ⟨hseq, hkind, hphase, -⟩ := edgeEffect_sequencer s
    rw [effectOf, loopRank, loopRank, hseq, hkind, hphase]
  | reset => exact absurd rfl hreset
  | delayDone => exact absurd (.inr rfl) hi
  | poll | drain | dispatch => exact absurd (.inl rfl) hi

section
variable {σ : Nat → State} {τ : Nat → Instr} {n : Nat}

/-- Without a RESET and away from POLL, no transaction of a run leads further from POLL. -/
theorem loopRank_run_le (hrun : IsRun σ τ) (hreset : ∀ m, n ≤ m → τ m ≠ .reset)
    (hnever : ∀ m, n ≤ m → (σ m).seq ≠ .poll) {m : Nat} (hm : n ≤ m) :
    loopRank (σ m) ≤ loopRank (σ n) := by
  induction m, hm using Nat.le_induction with
  | base => exact le_refl _
  | succ m hm ih =>
    obtain ⟨hen, heq⟩ := exec_next_inv (hrun m)
    rw [heq]
    by_cases hi : Progresses (τ m)
    · exact (loopRank_effectOf_lt hen (hnever m hm) hi).le.trans ih
    · exact (loopRank_effectOf_of_not_progresses hi (hreset m hm)).le.trans ih

/-- Fairness: without a RESET the loop is carried forward again and again (R107). -/
theorem exists_progresses (hfair : Fair σ τ) (hreset : ∀ m, n ≤ m → τ m ≠ .reset) :
    ∃ m, n ≤ m ∧ Progresses (τ m) := by
  by_cases hwait : (σ n).seq = .wait
  · obtain ⟨m, hm, hi⟩ := hfair.delay n hwait
    exact ⟨m, hm, .inr (hi.resolve_right (hreset m hm))⟩
  · obtain ⟨m, hm, hi⟩ := hfair.sequencer n hwait
    exact ⟨m, hm, .inl (hi.resolve_right (hreset m hm))⟩

/-- So a fair run away from POLL comes nearer to it. -/
theorem exists_loopRank_lt (hrun : IsRun σ τ) (hfair : Fair σ τ)
    (hreset : ∀ m, n ≤ m → τ m ≠ .reset) (hnever : ∀ m, n ≤ m → (σ m).seq ≠ .poll) :
    ∃ m, n ≤ m ∧ loopRank (σ m) < loopRank (σ n) := by
  obtain ⟨m, hm, hi⟩ := exists_progresses hfair hreset
  obtain ⟨hen, heq⟩ := exec_next_inv (hrun m)
  have hlt := loopRank_effectOf_lt hen (hnever m hm) hi
  exact ⟨m + 1, Nat.le_succ_of_le hm, heq ▸ hlt.trans_le (loopRank_run_le hrun hreset hnever hm)⟩

/-- Settles O38: a fair run that never polls would come nearer to POLL without end. -/
theorem fairRunReturnsToPoll : Obligations.FairRunReturnsToPoll := by
  intro σ τ hrun hfair n hreset
  by_contra hnot
  have hnever : ∀ m, n ≤ m → (σ m).seq ≠ .poll := fun m hm hpoll => hnot ⟨m, hm, hpoll⟩
  have hrank : ∀ r m, n ≤ m → loopRank (σ m) ≠ r := by
    intro r
    induction r using Nat.strong_induction_on with
    | h r ih =>
      rintro m hm rfl
      obtain ⟨m', hm', hlt⟩ := exists_loopRank_lt (n := m) hrun hfair
        (fun j hj => hreset j (hm.trans hj)) (fun j hj => hnever j (hm.trans hj))
      exact ih _ hlt m' (hm.trans hm') rfl
  exact hrank _ n (le_refl n) rfl

end

end Sys2Proof.Machine
end

/-! Proofs of the family other: rules of the whole machine (R8, R13, R110, program P1). -/

section
namespace Sys2Proof

/-- A configuration is refused exactly when R8 does not hold of it. -/
theorem Config.ofRaw_error_iff (r : RawConfig) : (∃ e, Config.ofRaw r = .error e) ↔ ¬r.wf = true := by
  unfold Config.ofRaw
  split_ifs with hwf hwidth
  · exact iff_of_false (by rintro ⟨e, he⟩; cases he) (fun h => h hwf)
  · exact iff_of_true ⟨_, rfl⟩ hwf
  · exact iff_of_true ⟨_, rfl⟩ hwf

/-- An accepted configuration is the one given (R8). -/
theorem Config.toRawConfig_of_ofRaw {r : RawConfig} {c : Config} (h : Config.ofRaw r = .ok c) :
    c.toRawConfig = r := by
  unfold Config.ofRaw at h
  split_ifs at h
  cases h
  rfl

end Sys2Proof
end

section
namespace Sys2Proof.Machine

variable {s t : State} {i : Instr}

/-- In every legal configuration the duration 31 exists and is LONG (R8, R70). -/
theorem exists_long_thirtyOne (c : Config) : ∃ d : Stamp c.tickWidth, d.toNat = 31 ∧ classify d = .long := by
  have hfit : 31 < 2 ^ c.tickWidth := c.thirtyTwo_le_two_pow
  have hval : (BitVec.ofNat c.tickWidth 31).toNat = 31 := by
    rw [BitVec.toNat_ofNat, Nat.mod_eq_of_lt hfit]
  refine ⟨_, hval, classify_eq_iff_covers.mpr ?_⟩
  rw [hval]
  exact Nat.lt_succ_self 30

/-- Settles O41: `Config.ofRaw` tests R8, whose width clause makes 31 a duration. -/
theorem onlyLegalConfigurationsAreAccepted : Obligations.OnlyLegalConfigurationsAreAccepted := by
  refine ⟨fun r => ?_, fun _ _ => Config.toRawConfig_of_ofRaw, exists_long_thirtyOne⟩
  rw [Config.ofRaw_error_iff, RawConfig.wf_iff]
  simp only [not_and_or, not_le, not_not]

/-- Settles O39: each transaction's record update names exactly the elements it writes. -/
theorem eachElementHasOnlyItsWriters : Obligations.EachElementHasOnlyItsWriters := by
  intro i s t h
  obtain ⟨-, ht⟩ := exec_next_inv h
  cases i with
  | tick => subst ht; simp [effectOf, tickEffect, State.readEntry]
  | edge =>
    obtain heq | ⟨_, hroom, heq⟩ := edgeEffect_cases s <;> rw [effectOf, heq] at ht <;> subst ht
    · simp
    · have hentry : ∀ k, (State.readEntry { s with
            buf := Memory.write s.buf s.wp.val s.tick, wp := ⟨s.wp.val + 1, Nat.succ_lt_succ hroom⟩ }
          k).toNat ≠ (s.readEntry k).toNat → k = s.wp.val := fun k hk =>
        by_contra fun hne => hk (congrArg _ (State.readEntry_write_other s.tick hne))
      simpa using hentry
  | delayDone =>
    obtain ⟨hk, heq⟩ | ⟨_, _, heq⟩ | ⟨_, _, heq⟩ := delayDoneEffect_cases s <;>
      rw [effectOf, heq] at ht <;> subst ht
    · simp [State.readEntry, hk]
    · simp [State.readEntry]
    · simp [State.readEntry]
  | reset => rw [effectOf, resetEffect_eq] at ht; subst ht; simp
  | poll => rw [effectOf, pollEffect_eq] at ht; subst ht; simp [State.readEntry]
  | drain => rw [effectOf, drainEffect_eq] at ht; subst ht; simp [State.readEntry]
  | dispatch =>
    obtain ⟨p, heq⟩ | ⟨_, heq⟩ | ⟨_, heq⟩ := dispatchEffect_cases s <;>
      rw [effectOf, heq] at ht <;> subst ht <;> simp [State.readEntry]

/-- Settles O40: the events that each transaction adds. -/
theorem observationDeterminesTheBoundary : Obligations.ObservationDeterminesTheBoundary := by
  intro i s t h
  obtain ⟨-, ht⟩ := exec_next_inv h
  cases i with
  | tick | poll | drain => subst ht; exact ⟨[], (List.append_nil _).symm, rfl, fun _ => rfl, nofun⟩
  | edge =>
    obtain heq | ⟨_, _, heq⟩ := edgeEffect_cases s <;> rw [effectOf, heq] at ht <;> subst ht <;>
      exact ⟨[], (List.append_nil _).symm, rfl, fun _ => rfl, nofun⟩
  | delayDone =>
    obtain ⟨_, heq⟩ | ⟨_, _, heq⟩ | ⟨_, _, heq⟩ := delayDoneEffect_cases s <;>
      rw [effectOf, heq] at ht <;> subst ht
    · exact ⟨[], (List.append_nil _).symm, rfl, fun _ => rfl, nofun⟩
    · exact ⟨phaseEvents s.dkind (s.dphase.val + 1), rfl, rfl, fun _ => rfl, nofun⟩
    · exact ⟨[], (List.append_nil _).symm, rfl, fun _ => rfl, nofun⟩
  | reset => subst ht; exact ⟨[.delayRequest 1000], rfl, rfl, fun h => absurd rfl h, fun _ => ⟨rfl, rfl⟩⟩
  | dispatch =>
    obtain ⟨p, hp⟩ | ⟨k, hk⟩ := (select s.cfg s.cmd).keyPattern_or_sequence
    · rw [effectOf, dispatchEffect_of_keyPattern hp, dispatchOnce_eq] at ht
      subst ht
      exact ⟨[.portWrite p], rfl, rfl, fun _ => rfl, nofun⟩
    · rw [effectOf, dispatchEffect_of_sequence hk, dispatchBlocking_eq] at ht
      subst ht
      exact ⟨phaseEvents k 0, rfl, rfl, fun _ => rfl, nofun⟩

/-- 0 is no key code (R8, R88). -/
theorem select_zero (c : Config) : select c 0 = .idle := (selectIsAPriorityChain c 0).2.2.2.2.2

/-- The whole idle blink, from its DISPATCH back to POLL (R95, R96, R105). -/
theorem runTxns_idleBlink (hseq : s.seq = .dispatch) (hsel : select s.cfg s.cmd = .idle) :
    runTxns [.dispatch, .delayDone, .delayDone] s = .next { s with
      dkind := .idle, dphase := ⟨1, by decide⟩, out := 0x2, dreqN := 400, seq := .poll,
      trace := s.trace ++ (phaseEvents .idle 0 ++ phaseEvents .idle 1) } := by
  rw [runTxns_cons_of_next (exec_dispatch_of_sequence (k := .idle) hseq (hsel ▸ rfl)),
    runTxns_cons_of_next (exec_delayDone rfl), delayDoneEffect_of_sequence (by simp),
    nextPhase_of_more (by exact Nat.one_lt_two),
    runTxns_cons_of_next (exec_delayDone rfl), delayDoneEffect_of_sequence (by simp),
    nextPhase_of_last (by exact le_refl 2), ← List.append_assoc]
  rfl

/-- Settles O43: `BOOT` and a poll of the empty buffer lead to a DISPATCH of 0, which is IDLE. -/
theorem bootLeadsToTheIdleBlink : Obligations.BootLeadsToTheIdleBlink := by
  intro s
  have hboot : runTxns [.reset, .delayDone, .poll] s =
      .next { resetEffect s with capEn := true, seq := .dispatch } := rfl
  refine ⟨_, (runTxns_append_of_next hboot _).trans (runTxns_idleBlink rfl (select_zero s.cfg)), ?_,
    rfl, rfl, rfl, rfl, rfl, rfl⟩
  exact List.append_assoc s.trace _ _

end Sys2Proof.Machine
end
